-- ==== Sys2Proof/Word.lean ====
section
/-! DEFINITION. The word types of the frame engine (00_scope.md R4, R5): the byte, the only unit moved, and the
16-bit checksum word. -/

namespace Sys2Proof

/-- A byte, an unsigned integer 0 to 255 (`BYTE_W` = 8, 00_scope.md R4, R5). -/
abbrev Byte := BitVec 8

/-- The 16-bit checksum word (`CHK_W` = 16, 00_scope.md R4; 10_state.md R11). -/
abbrev Word := BitVec 16

end Sys2Proof
end

