-- ==== Sys2Proof/Config.lean ====
section
/-! DEFINITION. The implementation parameters of 00_scope.md R4. `ENC_IN_MAX` and `DEC_IN_MAX` have no constant: as R4 says,
the model takes payloads and inputs of any finite length (assumption log 9). `TXT_FMT` is the host's choice per text and is
carried by the packet (assumption log 10). -/

namespace Sys2Proof.Config

/-- `START`, the first byte of every frame (30_encoding.md R31). -/
abbrev startMarker : Byte := 0xDD

/-- `END`, the last byte of every frame (30_encoding.md R31). -/
abbrev endMarker : Byte := 0x77

/-- `OP_READ`, the request opcode byte "read" (30_encoding.md R32). -/
abbrev opRead : Byte := 0xA5

/-- `OP_WRITE`, the request opcode byte "write" (30_encoding.md R32). -/
abbrev opWrite : Byte := 0x5A

/-- `OVERHEAD`, frame length minus payload length (00_scope.md R4). -/
abbrev overhead : Nat := 7

/-- `LEN_MAX`, the largest payload (00_scope.md R4; 30_encoding.md R34). -/
abbrev lenMax : Nat := 255

/-- `FRAME_MIN`, the shortest frame (00_scope.md R4; 30_encoding.md R36). -/
abbrev frameMin : Nat := 7

/-- `FRAME_MAX`, the longest frame (00_scope.md R4; 30_encoding.md R36). -/
abbrev frameMax : Nat := 262

/-- `LEN_OFFSET`, the offset of the LEN byte from START (00_scope.md R4; 20_memory.md R25). -/
abbrev lenOffset : Nat := 3

/-- `RSM_CAP`, the capacity in bytes of the reassembler's buffer (00_scope.md R4; decision D14). That it is never exceeded
is 43_reassembler.md R88, a property of the model and not a check it makes. -/
abbrev rsmCap : Nat := 262

/-- `UART_BAUD`, left open by the spec (00_scope.md R4, decision D26): no rule depends on it and no definition reads it. -/
opaque uartBaud : Nat

/-- `UART_FORMAT`, left open by the spec (00_scope.md R4, decision D26): no rule depends on it and no definition reads it. -/
opaque uartFormat : Nat

end Sys2Proof.Config
end

