-- ==== Sys2Proof/Machine/Operands.lean ====
section
/-! DEFINITION. The byte-level operand forms of the frame engine: reading a sequence (20_memory.md R21), splitting and
joining a 16-bit word (20_memory.md R22), extending a byte (00_scope.md R5). -/

namespace Sys2Proof.Machine

/-- `zext_16(b)`: the byte as a 16-bit word, the same number (00_scope.md R5). -/
def zext16 (b : Byte) : Word := b.setWidth 16

/-- `hi8(v) = v[15:8]` (00_scope.md R5). -/
def hi8 (v : Word) : Byte := v.extractLsb' 8 8

/-- `lo8(v) = v[7:0]` (00_scope.md R5). -/
def lo8 (v : Word) : Byte := v.extractLsb' 0 8

/-- `hi * 256 + lo` (20_memory.md R22; 30_encoding.md R38). -/
def joinBytes (hi lo : Byte) : Word := hi ++ lo

/-- `MemRead(B, i, 1)` (00_scope.md R6). It is used only where `i < |B|` is established (20_memory.md R21); the 0 that a
read beyond the end would give is never used. -/
def memRead1 (b : List Byte) (i : Nat) : Byte := b.getD i 0

/-- `MemRead(B, i, 2)`, big-endian (00_scope.md R6; 20_memory.md R22). -/
def memRead2 (b : List Byte) (i : Nat) : Word := joinBytes (memRead1 b i) (memRead1 b (i + 1))

/-- `B[i .. j)` (00_scope.md R5). -/
def slice (b : List Byte) (i j : Nat) : List Byte := (b.take j).drop i

/-- A length, 0 to 255, as the LEN byte (30_encoding.md R34). -/
def lenByte (n : Nat) : Byte := BitVec.ofNat 8 n

end Sys2Proof.Machine
end

