-- ==== Sys2Proof/Syntax.lean ====
section
/-! DEFINITION. The operations of the frame engine, one constructor per row of spec/opcode_table.json, and the packets in
which the host presents them. -/

namespace Sys2Proof

/-- The `rw` argument of ENC.REQ (41_frame_encoder.md R61). -/
inductive Rw
  | read
  | write
  deriving DecidableEq, Repr

/-- The direction bytes travel in: a request goes from the host to the device, a response comes back (00_scope.md
glossary; 30_encoding.md R33). -/
inductive Dir
  | request
  | response
  deriving DecidableEq, Repr

/-- `TXT_FMT`, which textual encoding a text is in, chosen by the host (44_text_loader.md R90, decision D20). -/
inductive TxtFmt
  | hex
  | esc
  deriving DecidableEq, Repr

/-- One operation with its operands. A character of a text is its code, a natural number, so that codes above 0x7F can be
presented (and are then refused by the loader, 44_text_loader.md R90). -/
inductive Instr
  /-- RESET (70_reset_and_hazards.md R120). -/
  | reset
  /-- CHK.CLR (40_checksum.md R50). -/
  | chkClr
  /-- CHK.UPD(b) (40_checksum.md R51). -/
  | chkUpd (b : Byte)
  /-- CHK.GET (40_checksum.md R52). -/
  | chkGet
  /-- ENC.REQ(rw, reg, data) (41_frame_encoder.md R61). -/
  | encReq (rw : Rw) (reg : Byte) (data : List Byte)
  /-- ENC.RSP(reg, status, data) (41_frame_encoder.md R62). -/
  | encRsp (reg status : Byte) (data : List Byte)
  /-- DEC.RUN(dir, in) (42_frame_decoder.md R70, R71). -/
  | decRun (dir : Dir) (inp : List Byte)
  /-- RESERVED.7: command code 0x7, which selects no operation (30_encoding.md R42). -/
  | reserved7
  /-- RSM.PUSH(chunk) (43_reassembler.md R82). -/
  | rsmPush (chunk : List Byte)
  /-- RSM.FLUSH (43_reassembler.md R85). -/
  | rsmFlush
  /-- RSM.CLR (43_reassembler.md R86). -/
  | rsmClr
  /-- RSM.SPLIT(bytes) (43_reassembler.md R87). -/
  | rsmSplit (bytes : List Byte)
  /-- RESERVED.C_F: command codes 0xC to 0xF, which select no operation (30_encoding.md R42); `low` is op[1:0]. -/
  | reservedCF (low : BitVec 2)
  /-- READ: a request frame with b1 = 0xA5 (30_encoding.md R32, R39). LEN is 0 by convention only (R44). -/
  | read (reg : Byte) (data : List Byte)
  /-- WRITE: a request frame with b1 = 0x5A (30_encoding.md R32, R39). -/
  | write (reg : Byte) (data : List Byte)
  /-- RSP: a response frame (30_encoding.md R33, R39). -/
  | rsp (reg status : Byte) (data : List Byte)
  /-- HWINFO, `READ 03` (30_encoding.md R40, R45). -/
  | hwinfo
  /-- CELLINFO, `READ 04` (30_encoding.md R40, R45). -/
  | cellinfo
  /-- HWVER, `READ 05` (30_encoding.md R40, R45). -/
  | hwver
  /-- MOSFET m, `WRITE E1, 00 m`; bit 0 of m is charge-off, bit 1 discharge-off (30_encoding.md R40, R45). -/
  | mosfet (m : BitVec 2)
  /-- EEPROM_OPEN, `WRITE 00, 56 78` (30_encoding.md R40, R45). -/
  | eepromOpen
  /-- EEPROM_CLOSE, `WRITE 01, 00 00` (30_encoding.md R40, R45). -/
  | eepromClose
  /-- TXT.HEX(text) (44_text_loader.md R91). -/
  | txtHex (text : List Nat)
  /-- TXT.ESC(text) (44_text_loader.md R92). -/
  | txtEsc (text : List Nat)
  deriving DecidableEq, Repr

/-- How the host presents one operation (DESIGN CHOICE, assumption log 1; the spec gives the command code and the frame
layout, and no encoding of an operation's arguments). Safe: no rule of the spec depends on it. -/
inductive Packet
  /-- On the command port: the selector byte, whose bits 3:0 are the command code `op` (30_encoding.md R41), then the
  operation's arguments. -/
  | cmd (bytes : List Byte)
  /-- On the wire: a frame's bytes and the direction they travel in, which the bytes do not tell (30_encoding.md R33). -/
  | wire (dir : Dir) (bytes : List Byte)
  /-- To the text loader: a text and the textual encoding the host says it is in (44_text_loader.md R90). -/
  | text (fmt : TxtFmt) (chars : List Nat)
  deriving DecidableEq, Repr

/-- Why a packet is no encoding of an operation. Each is the decoder's refusal, by name. -/
inductive Reject
  /-- A command packet without its selector byte, or without an argument byte its operation needs. -/
  | argumentMissing
  /-- A command packet with bytes after the last argument of its operation. -/
  | argumentSurplus
  /-- A wire packet that does not begin with START and a whole head of four bytes (30_encoding.md R30). -/
  | headMissing
  /-- A wire packet whose length is not the one its LEN byte declares (30_encoding.md R37). -/
  | lengthWrong
  /-- A whole frame on the wire whose checksum field or END byte is not the one 30_encoding.md R30 and R35 give it. -/
  | tailWrong
  /-- A request on the wire whose b1 is neither 0xA5 nor 0x5A: a reserved encoding (30_encoding.md R39, R42). -/
  | requestOpcodeReserved
  deriving DecidableEq, Repr

end Sys2Proof
end

