-- ==== Sys2Proof/Machine/Frame.lean ====
section
/-! DEFINITION. The two pure functions every unit shares: the checksum of a byte sequence (40_checksum.md R53) and the bytes
of a frame (41_frame_encoder.md R60). -/

namespace Sys2Proof.Machine

/-- One byte folded into an accumulator, `u16(acc - b)` (40_checksum.md R51). -/
def chkFold (acc : Word) (b : Byte) : Word := acc - zext16 b

/-- `chk16(s)`: 0 minus every byte of `s`, modulo 65536 (40_checksum.md R53). Not a CRC (90_conflicts.md C1). -/
def chk16 (s : List Byte) : Word := s.foldl chkFold 0

/-- The checksum of a frame: over b2, LEN and the payload (30_encoding.md R35). -/
def frameChecksum (b2 : Byte) (data : List Byte) : Word := chk16 (b2 :: lenByte data.length :: data)

/-- The three bytes after the payload: checksum, big-endian, and END (30_encoding.md R30, R35). -/
def frameTail (b2 : Byte) (data : List Byte) : List Byte :=
  [hi8 (frameChecksum b2 data), lo8 (frameChecksum b2 data), Config.endMarker]

/-- The four bytes before the payload (30_encoding.md R30). -/
def frameHead (b1 b2 : Byte) (data : List Byte) : List Byte :=
  [Config.startMarker, b1, b2, lenByte data.length]

/-- `frame(b1, b2, data)` (41_frame_encoder.md R60); meant for payloads of at most 255 bytes only. -/
def frame (b1 b2 : Byte) (data : List Byte) : List Byte :=
  frameHead b1 b2 data ++ data ++ frameTail b2 data

/-- The opcode byte of a request (41_frame_encoder.md R61). -/
def rwByte : Rw → Byte
  | .read => Config.opRead
  | .write => Config.opWrite

/-- The payload of MOSFET m: `00 m` (30_encoding.md R40). -/
def mosfetPayload (m : BitVec 2) : List Byte := [0x00, m.setWidth 8]

end Sys2Proof.Machine
end

