-- ==== Sys2Proof/Machine/State.lean ====
section
/-! DEFINITION. The state of the frame engine, the outcomes its operations return, and the machine right after reset. -/

namespace Sys2Proof.Machine

/-- The error outcomes (60_exceptions.md R101). -/
inductive ErrCode
  /-- Raised by DEC.RUN: fewer than 7 bytes, in all or from the first START on. -/
  | tooShort
  /-- Raised by DEC.RUN: no START byte. -/
  | badStart
  /-- Raised by DEC.RUN: the byte where END must be is not 0x77. -/
  | badEnd
  /-- Raised by DEC.RUN: the declared LEN exceeds the available bytes. -/
  | lengthMismatch
  /-- Raised by DEC.RUN: the computed checksum differs from the checksum field. -/
  | checksumMismatch
  /-- Raised by ENC.REQ and ENC.RSP: more than 255 payload bytes. -/
  | payloadTooLong
  /-- Raised by TXT.HEX and TXT.ESC: the text is not one the loader takes. -/
  | textRefused
  deriving DecidableEq, Repr

/-- The frame record DEC.RUN returns (42_frame_decoder.md R70). -/
structure FrameRecord where
  dir : Dir
  start : Nat
  b1 : Byte
  b2 : Byte
  len : Byte
  data : List Byte
  crc : Word
  checksumValid : Bool
  deriving DecidableEq, Repr

/-- The events of the reassembler (43_reassembler.md R80). -/
inductive Event
  /-- A candidate frame. -/
  | frame (f : List Byte)
  /-- The incomplete remainder at the end of a stream. -/
  | fragment (f : List Byte)
  /-- A byte seen while hunting and discarded. -/
  | skip (b : Byte)
  deriving DecidableEq, Repr

/-- The value of an operation that succeeds: nothing, a 16-bit word (CHK.GET), a byte sequence (ENC, TXT), a frame record
(DEC.RUN) or an event list (RSM) (30_encoding.md R41, "result on Ok"). -/
inductive Value
  | unit
  | word (v : Word)
  | bytes (s : List Byte)
  | record (r : FrameRecord)
  | events (e : List Event)
  deriving DecidableEq, Repr

/-- The outcome of an operation: `Ok(value)` or `Err(code)`, and nothing more (60_exceptions.md R100, R101). -/
inductive Result
  | ok (v : Value)
  | err (c : ErrCode)
  deriving DecidableEq, Repr

/-- Nothing makes the engine stop with a fault: every error of the spec is an outcome that is returned, after which the next
operation proceeds (60_exceptions.md R105, R107; assumption log 11). So this type has no constructor. -/
inductive Fault
  deriving DecidableEq, Repr

/-- Why a step has no next state. -/
inductive Refusal
  /-- Raised by an arm of `exec` whose instruction has no meaning yet. Safe. -/
  | notModelled (mnemonic : String)
  /-- Raised by RESERVED.7 and RESERVED.C_F: the command code selects no operation and is refused (30_encoding.md R42,
  decision D2, U8). Safe: the run ends. -/
  | reservedCommand (code : BitVec 4)
  /-- Raised by the step on a packet that is no encoding of an operation, with the decoder's reason (assumption log 1).
  Safe: the run ends. -/
  | undecodable (why : Reject)
  deriving DecidableEq, Repr

/-- The state: `st.acc` and `st.buf`, which are the engine's whole state (10_state.md R10), and the model's two fields for
the host's side of the interface, which no operation of the engine reads (assumption log 2). -/
structure State where
  /-- `st.acc`, the checksum accumulator of CHK (10_state.md R11). -/
  acc : Word
  /-- `st.buf`, the buffer of RSM, oldest byte first (10_state.md R13). -/
  buf : List Byte
  /-- The operations the host has issued and the engine has not executed, oldest first (model's own; 20_memory.md R26). -/
  pending : List Packet
  /-- The outcomes returned so far, oldest first (model's own; 60_exceptions.md R100). -/
  results : List Result
  deriving DecidableEq, Repr

/-- The machine right after reset, which is also power-on: `st.acc = 0x0000`, `st.buf = []` (10_state.md R17;
70_reset_and_hazards.md R120, R121). The host has issued nothing and been given nothing (assumption log 2). -/
def State.reset : State := { acc := 0x0000, buf := [], pending := [], results := [] }

end Sys2Proof.Machine
end

