-- ==== Sys2Proof/Machine/Ops.lean ====
section
/-! DEFINITION. The shared operations: writing the two state elements, returning an outcome (success, or an error, the
engine's only exception), and the algorithms of ENC, DEC and RSM that the meanings call. -/

namespace Sys2Proof.Machine

/-! ## State elements and outcomes -/

/-- `st.acc <- v` (00_scope.md R6; 10_state.md R11). -/
def State.setAcc (s : State) (v : Word) : State := { s with acc := v }

/-- `st.buf <- b` (00_scope.md R6; 10_state.md R13). -/
def State.setBuf (s : State) (b : List Byte) : State := { s with buf := b }

/-- The outcome of an operation, handed to the host before the next operation begins (60_exceptions.md R100). -/
def State.deliver (s : State) (r : Result) : State := { s with results := s.results ++ [r] }

/-- `return v`: the operation ends with outcome `Ok(v)` (00_scope.md R6). -/
def ret (v : Value) (s : State) : Host.Outcome State Fault Refusal := .next (s.deliver (.ok v))

/-- `raise E`: the engine's whole exception entry. The operation ends with outcome `Err(E)`; no state element is written,
nothing is saved, no control is transferred and nothing is latched (00_scope.md R6; 60_exceptions.md R105). There is nothing
to return from: the next operation proceeds at once (60_exceptions.md R107). -/
def raiseErr (e : ErrCode) (s : State) : Host.Outcome State Fault Refusal := .next (s.deliver (.err e))

/-- An outcome computed without touching state, returned or raised. -/
def finish (f : α → Value) (r : Except ErrCode α) (s : State) : Host.Outcome State Fault Refusal :=
  match r with
  | .ok a => ret (f a) s
  | .error e => raiseErr e s

/-- A command code that selects no operation is refused (30_encoding.md R42, decision D2). -/
def refuseCommand (code : BitVec 4) : Host.Outcome State Fault Refusal := .refused (.reservedCommand code)

/-! ## ENC -/

/-- The body of ENC.REQ and ENC.RSP: the one test, then the frame (41_frame_encoder.md R61, R62). -/
def encodeFrame (b1 b2 : Byte) (data : List Byte) : Except ErrCode (List Byte) :=
  if data.length > Config.lenMax then .error .payloadTooLong else .ok (frame b1 b2 data)

/-! ## DEC -/

/-- The least index of a START byte (42_frame_decoder.md R71, test 2). -/
def findStart (inp : List Byte) : Option Nat := inp.findIdx? (· == Config.startMarker)

/-- The checksum of the bytes of a frame that starts at `s` and declares `len`: over b2, LEN and DATA
(42_frame_decoder.md R71; 30_encoding.md R35). -/
def coveredChecksum (inp : List Byte) (s len : Nat) : Word := chk16 (slice inp (s + 2) (s + 4 + len))

/-- The record of the frame that starts at `s` and declares `len` (42_frame_decoder.md R70, R71 line 7). -/
def recordAt (dir : Dir) (inp : List Byte) (s len : Nat) : FrameRecord where
  dir := dir
  start := s
  b1 := memRead1 inp (s + 1)
  b2 := memRead1 inp (s + 2)
  len := memRead1 inp (s + 3)
  data := slice inp (s + 4) (s + 4 + len)
  crc := memRead2 inp (s + 4 + len)
  checksumValid := true

/-- Tests 4 to 7 of DEC.RUN, at a START byte from which at least 7 bytes are available (42_frame_decoder.md R71). -/
def decodeDeclared (dir : Dir) (inp : List Byte) (s len : Nat) : Except ErrCode FrameRecord :=
  if Config.overhead + len > inp.length - s then .error .lengthMismatch
  else if memRead1 inp (s + 6 + len) ≠ Config.endMarker then .error .badEnd
  else if coveredChecksum inp s len ≠ memRead2 inp (s + 4 + len) then .error .checksumMismatch
  else .ok (recordAt dir inp s len)

/-- Tests 3 to 7 of DEC.RUN, at the first START byte (42_frame_decoder.md R71). -/
def decodeFrom (dir : Dir) (inp : List Byte) (s : Nat) : Except ErrCode FrameRecord :=
  if inp.length - s < Config.frameMin then .error .tooShort
  else decodeDeclared dir inp s (memRead1 inp (s + Config.lenOffset)).toNat

/-- DEC.RUN, the tests in the order of 42_frame_decoder.md R71. -/
def decodeFrame (dir : Dir) (inp : List Byte) : Except ErrCode FrameRecord :=
  if inp.length < Config.frameMin then .error .tooShort
  else
    match findStart inp with
    | none => .error .badStart
    | some s => decodeFrom dir inp s

/-! ## RSM -/

/-- A buffer holds a complete frame: its LEN byte has arrived and it is `7 + LEN` long (43_reassembler.md R81). -/
def bufComplete (buf : List Byte) : Bool :=
  decide (4 ≤ buf.length) && decide (buf.length = Config.overhead + (memRead1 buf Config.lenOffset).toNat)

/-- The byte step while hunting (43_reassembler.md R81, R83): the new buffer and the events. -/
def huntByte (b : Byte) : List Byte × List Event :=
  if b = Config.startMarker then ([b], []) else ([], [.skip b])

/-- The byte step while collecting, on the buffer with the byte appended (43_reassembler.md R81). -/
def collectByte (buf : List Byte) : List Byte × List Event :=
  if bufComplete buf then ([], [.frame buf]) else (buf, [])

/-- `push1(b)` (43_reassembler.md R81): the new buffer and the events. -/
def push1 (buf : List Byte) (b : Byte) : List Byte × List Event :=
  match buf with
  | [] => huntByte b
  | x :: xs => collectByte ((x :: xs) ++ [b])

/-- `push1` over a chunk in index order (43_reassembler.md R82): the new buffer and the events in order. -/
def pushAll : List Byte → List Byte → List Byte × List Event
  | buf, [] => (buf, [])
  | buf, b :: rest => ((pushAll (push1 buf b).1 rest).1, (push1 buf b).2 ++ (pushAll (push1 buf b).1 rest).2)

/-- The events of RSM.FLUSH: the remainder, if there is one (43_reassembler.md R85). -/
def flushEvents : List Byte → List Event
  | [] => []
  | x :: xs => [.fragment (x :: xs)]

/-- The events of RSM.SPLIT: those of pushing the bytes into an empty buffer, then those of flushing it
(43_reassembler.md R87). -/
def splitEvents (bytes : List Byte) : List Event :=
  (pushAll [] bytes).2 ++ flushEvents (pushAll [] bytes).1

end Sys2Proof.Machine
end

