-- ==== Sys2Proof/Machine/Chk.lean ====
section
/-! DEFINITION. Unit CHK, the checksum accumulator. -/

namespace Sys2Proof.Machine

/-- CHK.CLR (40_checksum.md R50). -/
def execChkClr (s : State) : Host.Outcome State Fault Refusal := ret .unit (s.setAcc 0x0000)

/-- CHK.UPD(b) (40_checksum.md R51). -/
def execChkUpd (b : Byte) (s : State) : Host.Outcome State Fault Refusal := ret .unit (s.setAcc (chkFold s.acc b))

/-- CHK.GET (40_checksum.md R52). -/
def execChkGet (s : State) : Host.Outcome State Fault Refusal := ret (.word s.acc) s

end Sys2Proof.Machine
end

