-- ==== Sys2Proof/Machine/Control.lean ====
section
/-! DEFINITION. The block-wide operation RESET and the reserved command codes. -/

namespace Sys2Proof.Machine

/-- RESET: CHK.CLR followed by RSM.CLR, with no event (70_reset_and_hazards.md R120). -/
def execReset (s : State) : Host.Outcome State Fault Refusal := ret .unit ((s.setAcc 0x0000).setBuf [])

/-- Command code 0x7 is refused, with no state change (30_encoding.md R42). -/
def execReserved7 (_ : State) : Host.Outcome State Fault Refusal := refuseCommand 0x7

/-- Command codes 0xC to 0xF are refused, with no state change (30_encoding.md R42). -/
def execReservedCF (low : BitVec 2) (_ : State) : Host.Outcome State Fault Refusal :=
  refuseCommand (0xC ||| low.setWidth 4)

end Sys2Proof.Machine
end

