-- ==== Sys2Proof/Machine/Dec.lean ====
section
/-! DEFINITION. Unit DEC, the frame decoder. It reads and writes no state (10_state.md R12). -/

namespace Sys2Proof.Machine

/-- DEC.RUN(dir, in) (42_frame_decoder.md R70, R71). -/
def execDecRun (dir : Dir) (inp : List Byte) (s : State) : Host.Outcome State Fault Refusal :=
  finish .record (decodeFrame dir inp) s

end Sys2Proof.Machine
end

