-- ==== Sys2Proof/Machine/Enc.lean ====
section
/-! DEFINITION. Unit ENC, the frame encoder. It reads and writes no state (10_state.md R12). -/

namespace Sys2Proof.Machine

/-- ENC.REQ(rw, reg, data) (41_frame_encoder.md R61). -/
def execEncReq (rw : Rw) (reg : Byte) (data : List Byte) (s : State) : Host.Outcome State Fault Refusal :=
  finish .bytes (encodeFrame (rwByte rw) reg data) s

/-- ENC.RSP(reg, status, data) (41_frame_encoder.md R62). -/
def execEncRsp (reg status : Byte) (data : List Byte) (s : State) : Host.Outcome State Fault Refusal :=
  finish .bytes (encodeFrame reg status data) s

end Sys2Proof.Machine
end

