-- ==== Sys2Proof/Machine/Rsm.lean ====
section
/-! DEFINITION. Unit RSM, the stream reassembler. -/

namespace Sys2Proof.Machine

/-- RSM.PUSH(chunk) (43_reassembler.md R82). -/
def execRsmPush (chunk : List Byte) (s : State) : Host.Outcome State Fault Refusal :=
  ret (.events (pushAll s.buf chunk).2) (s.setBuf (pushAll s.buf chunk).1)

/-- RSM.FLUSH (43_reassembler.md R85). -/
def execRsmFlush (s : State) : Host.Outcome State Fault Refusal := ret (.events (flushEvents s.buf)) (s.setBuf [])

/-- RSM.CLR (43_reassembler.md R86). -/
def execRsmClr (s : State) : Host.Outcome State Fault Refusal := ret .unit (s.setBuf [])

/-- RSM.SPLIT(bytes) (43_reassembler.md R87). -/
def execRsmSplit (bytes : List Byte) (s : State) : Host.Outcome State Fault Refusal :=
  ret (.events (splitEvents bytes)) (s.setBuf [])

end Sys2Proof.Machine
end

