-- ==== Sys2Proof/Machine/TextLoader.lean ====
section
/-! DEFINITION. The two functions of the host's text loader (44_text_loader.md R90 to R92). A text is a list of character
codes. -/

namespace Sys2Proof.Machine

/-- Every character is ASCII, code 0x00 to 0x7F (44_text_loader.md R90). -/
def isAscii (text : List Nat) : Bool := text.all fun c => decide (c ≤ 0x7F)

/-- `val`: the value of a hexadecimal digit of either case (44_text_loader.md R91; from general knowledge, G1). -/
def hexVal (c : Nat) : Option Nat :=
  if 0x30 ≤ c ∧ c ≤ 0x39 then some (c - 0x30)
  else if 0x41 ≤ c ∧ c ≤ 0x46 then some (c - 0x41 + 10)
  else if 0x61 ≤ c ∧ c ≤ 0x66 then some (c - 0x61 + 10)
  else none

/-- The three delimiters: space, colon, comma (44_text_loader.md R91). -/
def isDelimiter (c : Nat) : Bool := decide (c = 0x20) || decide (c = 0x3A) || decide (c = 0x2C)

/-- The byte of two digit values, the first the high nibble (44_text_loader.md R91; from general knowledge, G1). -/
def nibblesByte (hi lo : Nat) : Byte := BitVec.ofNat 8 (16 * hi + lo)

/-- The byte of two characters, where both are hexadecimal digits. -/
def hexPair (h l : Nat) : Option Byte :=
  match hexVal h, hexVal l with
  | some hi, some lo => some (nibblesByte hi lo)
  | _, _ => none

/-- Pairs of digits to bytes; a character that is no digit, or a digit without its partner, is refused
(44_text_loader.md R91, decision D20). -/
def hexPairs : List Nat → Except ErrCode (List Byte)
  | [] => .ok []
  | [_] => .error .textRefused
  | h :: l :: rest =>
    match hexPair h l, hexPairs rest with
    | some b, .ok bs => .ok (b :: bs)
    | _, _ => .error .textRefused

/-- TXT.HEX: the delimiters removed, then the digits in pairs (44_text_loader.md R91). A character above 0x7F is neither
a delimiter nor a digit; R90 refuses it likewise. -/
def txtHex (text : List Nat) : Except ErrCode (List Byte) :=
  if isAscii text then hexPairs (text.filter fun c => !isDelimiter c) else .error .textRefused

/-- A character passed through as literal ASCII (44_text_loader.md R92). -/
def literalByte (c : Nat) : Byte := BitVec.ofNat 8 c

/-- The byte of an escape of one letter after the backslash (44_text_loader.md R92; values from general knowledge, G2). -/
def letterEscape (e : Nat) : Option Byte :=
  if e = 0x30 then some 0x00
  else if e = 0x6E then some 0x0A
  else if e = 0x72 then some 0x0D
  else if e = 0x74 then some 0x09
  else if e = 0x5C then some 0x5C
  else none

/-- The byte of a hexadecimal escape, from the characters after the backslash: `x` and two digits
(44_text_loader.md R92). -/
def hexEscape : List Nat → Option Byte
  | x :: h :: l :: _ => if x = 0x78 then hexPair h l else none
  | _ => none

/-- The byte of a letter escape, from the characters after the backslash (44_text_loader.md R92). -/
def shortEscape : List Nat → Option Byte
  | e :: _ => letterEscape e
  | [] => none

/-- One turn of the scan of 44_text_loader.md R92 at character `c`: the byte it gives, and how many of the characters after
`c` it takes. An unrecognised or incomplete escape, and a backslash at the end, give the backslash itself. -/
def escOne (c : Nat) (rest : List Nat) : Byte × Nat :=
  if c = 0x5C then
    match hexEscape rest, shortEscape rest with
    | some b, _ => (b, 3)
    | none, some b => (b, 1)
    | none, none => (0x5C, 0)
  else (literalByte c, 0)

/-- The scan of TXT.ESC, left to right (44_text_loader.md R92); `taken` characters belong to the turn before. -/
def escScan : Nat → List Nat → List Byte
  | _, [] => []
  | taken + 1, _ :: rest => escScan taken rest
  | 0, c :: rest => (escOne c rest).1 :: escScan (escOne c rest).2 rest

/-- TXT.ESC (44_text_loader.md R90, R92). -/
def txtEsc (text : List Nat) : Except ErrCode (List Byte) :=
  if isAscii text then .ok (escScan 0 text) else .error .textRefused

end Sys2Proof.Machine
end

