-- ==== Sys2Proof/Machine/Text.lean ====
section
/-! DEFINITION. The host's text loader as operations: pure, and touching no state of the engine (44_text_loader.md R90). -/

namespace Sys2Proof.Machine

/-- TXT.HEX(text) (44_text_loader.md R91). -/
def execTxtHex (text : List Nat) (s : State) : Host.Outcome State Fault Refusal := finish .bytes (txtHex text) s

/-- TXT.ESC(text) (44_text_loader.md R92). -/
def execTxtEsc (text : List Nat) (s : State) : Host.Outcome State Fault Refusal := finish .bytes (txtEsc text) s

end Sys2Proof.Machine
end

