-- ==== Sys2Proof/Machine/Wire.lean ====
section
/-! DEFINITION. The wire kinds and pseudo-instructions. Each expands to the one byte sequence of 41_frame_encoder.md R60
(30_encoding.md R45), built as ENC builds it (the rule column of the table: R61, R62, R40; assumption log 4). What the device
does with the frame is outside the engine (30_encoding.md R39). -/

namespace Sys2Proof.Machine

/-- READ (30_encoding.md R32, R45; 41_frame_encoder.md R61). A payload is encoded as given (R44, R63). -/
def execRead (reg : Byte) (data : List Byte) (s : State) : Host.Outcome State Fault Refusal :=
  finish .bytes (encodeFrame Config.opRead reg data) s

/-- WRITE (30_encoding.md R32, R45; 41_frame_encoder.md R61). -/
def execWrite (reg : Byte) (data : List Byte) (s : State) : Host.Outcome State Fault Refusal :=
  finish .bytes (encodeFrame Config.opWrite reg data) s

/-- RSP (30_encoding.md R33, R45; 41_frame_encoder.md R62). -/
def execRsp (reg status : Byte) (data : List Byte) (s : State) : Host.Outcome State Fault Refusal :=
  finish .bytes (encodeFrame reg status data) s

/-- HWINFO, `READ 03` (30_encoding.md R40, R45). -/
def execHwinfo (s : State) : Host.Outcome State Fault Refusal := finish .bytes (encodeFrame Config.opRead 0x03 []) s

/-- CELLINFO, `READ 04` (30_encoding.md R40, R45). -/
def execCellinfo (s : State) : Host.Outcome State Fault Refusal := finish .bytes (encodeFrame Config.opRead 0x04 []) s

/-- HWVER, `READ 05` (30_encoding.md R40, R45). -/
def execHwver (s : State) : Host.Outcome State Fault Refusal := finish .bytes (encodeFrame Config.opRead 0x05 []) s

/-- MOSFET m, `WRITE E1, 00 m` (30_encoding.md R40, R45). -/
def execMosfet (m : BitVec 2) (s : State) : Host.Outcome State Fault Refusal :=
  finish .bytes (encodeFrame Config.opWrite 0xE1 (mosfetPayload m)) s

/-- EEPROM_OPEN, `WRITE 00, 56 78` (30_encoding.md R40, R45; the payload's byte order is decision D18). -/
def execEepromOpen (s : State) : Host.Outcome State Fault Refusal :=
  finish .bytes (encodeFrame Config.opWrite 0x00 [0x56, 0x78]) s

/-- EEPROM_CLOSE, `WRITE 01, 00 00` (30_encoding.md R40, R45). -/
def execEepromClose (s : State) : Host.Outcome State Fault Refusal :=
  finish .bytes (encodeFrame Config.opWrite 0x01 [0x00, 0x00]) s

end Sys2Proof.Machine
end

