-- ==== Sys2Proof/Machine/Dispatch.lean ====
section
/-! DEFINITION. One arm per row of spec/opcode_table.json. -/

namespace Sys2Proof.Machine

/-- The meaning of an instruction in a state. -/
def exec (i : Instr) (s : State) : Host.Outcome State Fault Refusal :=
  match i with
  | .reset => Sys2Proof.Machine.execReset s
  | .chkClr => Sys2Proof.Machine.execChkClr s
  | .chkUpd b => Sys2Proof.Machine.execChkUpd b s
  | .chkGet => Sys2Proof.Machine.execChkGet s
  | .encReq rw reg data => Sys2Proof.Machine.execEncReq rw reg data s
  | .encRsp reg status data => Sys2Proof.Machine.execEncRsp reg status data s
  | .decRun dir inp => Sys2Proof.Machine.execDecRun dir inp s
  | .reserved7 => Sys2Proof.Machine.execReserved7 s
  | .rsmPush chunk => Sys2Proof.Machine.execRsmPush chunk s
  | .rsmFlush => Sys2Proof.Machine.execRsmFlush s
  | .rsmClr => Sys2Proof.Machine.execRsmClr s
  | .rsmSplit bytes => Sys2Proof.Machine.execRsmSplit bytes s
  | .reservedCF low => Sys2Proof.Machine.execReservedCF low s
  | .read reg data => Sys2Proof.Machine.execRead reg data s
  | .write reg data => Sys2Proof.Machine.execWrite reg data s
  | .rsp reg status data => Sys2Proof.Machine.execRsp reg status data s
  | .hwinfo => Sys2Proof.Machine.execHwinfo s
  | .cellinfo => Sys2Proof.Machine.execCellinfo s
  | .hwver => Sys2Proof.Machine.execHwver s
  | .mosfet m => Sys2Proof.Machine.execMosfet m s
  | .eepromOpen => Sys2Proof.Machine.execEepromOpen s
  | .eepromClose => Sys2Proof.Machine.execEepromClose s
  | .txtHex text => Sys2Proof.Machine.execTxtHex text s
  | .txtEsc text => Sys2Proof.Machine.execTxtEsc text s

end Sys2Proof.Machine
end

