-- ==== Sys2Proof/WellFormed.lean ====
section
/-! DEFINITION. Which terms of `Instr` are instructions that the encodings of 30_encoding.md can carry, each under one name:
a frame's payload fits its LEN byte, and READ and WRITE are not written where a pseudo-instruction of R40 names the same frame. -/

namespace Sys2Proof

/-- The payload length fits the LEN field (30_encoding.md R34). -/
def payloadFits (data : List Byte) : Bool := decide (data.length ≤ Config.lenMax)

/-- The frames of READ that HWINFO, CELLINFO and HWVER name (30_encoding.md R40). -/
def readHasAlias (reg : Byte) (data : List Byte) : Bool :=
  decide (data = []) && (decide (reg = 0x03) || decide (reg = 0x04) || decide (reg = 0x05))

/-- The frames of WRITE that MOSFET, EEPROM_OPEN and EEPROM_CLOSE name (30_encoding.md R40). -/
def writeHasAlias (reg : Byte) (data : List Byte) : Bool :=
  (decide (reg = 0xE1) &&
    (decide (data = [0x00, 0x00]) || decide (data = [0x00, 0x01]) || decide (data = [0x00, 0x02]) ||
      decide (data = [0x00, 0x03]))) ||
  (decide (reg = 0x00) && decide (data = [0x56, 0x78])) ||
  (decide (reg = 0x01) && decide (data = [0x00, 0x00]))

/-- The check on an instruction. An operation of the command port or of the text loader takes operands of every value; the
engine runs an instruction whether or not it passes this check. -/
def wellFormed : Instr → Bool
  | .read reg data => payloadFits data && !readHasAlias reg data
  | .write reg data => payloadFits data && !writeHasAlias reg data
  | .rsp _ _ data => payloadFits data
  | .reset => true
  | .chkClr => true
  | .chkUpd _ => true
  | .chkGet => true
  | .encReq _ _ _ => true
  | .encRsp _ _ _ => true
  | .decRun _ _ => true
  | .reserved7 => true
  | .rsmPush _ => true
  | .rsmFlush => true
  | .rsmClr => true
  | .rsmSplit _ => true
  | .reservedCF _ => true
  | .hwinfo => true
  | .cellinfo => true
  | .hwver => true
  | .mosfet _ => true
  | .eepromOpen => true
  | .eepromClose => true
  | .txtHex _ => true
  | .txtEsc _ => true

end Sys2Proof
end

