-- ==== Sys2Proof/Decode.lean ====
section
/-! DEFINITION. The decoder from packets to instructions, total, rejecting by name; then the encoder; then the decoder's
answer to a word of spec/opcode_table.json. -/

namespace Sys2Proof

open Machine (frame rwByte mosfetPayload)

/-! ## The command port -/

/-- An operation without arguments, or the refusal of what follows its selector. -/
def noArgument (i : Instr) : List Byte → Except Reject Instr
  | [] => .ok i
  | _ :: _ => .error .argumentSurplus

/-- Bit 4 of the selector byte, as the `rw` of ENC.REQ (assumption log 1): 0 READ, 1 WRITE. -/
def rwOf (sel : Byte) : Rw := if sel.getLsbD 4 then .write else .read

/-- Bit 4 of the selector byte, as the `dir` of DEC.RUN (assumption log 1): 0 request, 1 response. -/
def dirOf (sel : Byte) : Dir := if sel.getLsbD 4 then .response else .request

/-- CHK.UPD's argument: one byte. -/
def decodeChkUpd : List Byte → Except Reject Instr
  | [b] => .ok (.chkUpd b)
  | [] => .error .argumentMissing
  | _ :: _ :: _ => .error .argumentSurplus

/-- ENC.REQ's arguments: the register, then the payload. -/
def decodeEncReq (rw : Rw) : List Byte → Except Reject Instr
  | reg :: data => .ok (.encReq rw reg data)
  | [] => .error .argumentMissing

/-- ENC.RSP's arguments: the register, the status, then the payload. -/
def decodeEncRsp : List Byte → Except Reject Instr
  | reg :: status :: data => .ok (.encRsp reg status data)
  | _ => .error .argumentMissing

/-- The operation a selector byte and its arguments name. The command code is op[3:0] (30_encoding.md R41); bits 7:5, and
bit 4 where no argument is in it, select nothing. -/
def decodeSelected (sel : Byte) (args : List Byte) : Except Reject Instr :=
  match sel.toNat % 16 with
  | 0x0 => noArgument .reset args
  | 0x1 => noArgument .chkClr args
  | 0x2 => decodeChkUpd args
  | 0x3 => noArgument .chkGet args
  | 0x4 => decodeEncReq (rwOf sel) args
  | 0x5 => decodeEncRsp args
  | 0x6 => .ok (.decRun (dirOf sel) args)
  | 0x7 => noArgument .reserved7 args
  | 0x8 => .ok (.rsmPush args)
  | 0x9 => noArgument .rsmFlush args
  | 0xA => noArgument .rsmClr args
  | 0xB => .ok (.rsmSplit args)
  | _ => noArgument (.reservedCF (sel.extractLsb' 0 2)) args

/-- A command packet. -/
def decodeCmd : List Byte → Except Reject Instr
  | [] => .error .argumentMissing
  | sel :: args => decodeSelected sel args

/-! ## The wire -/

/-- The name of a read request: the table's most specific row (30_encoding.md R39, R40). -/
def nameRead (reg : Byte) (data : List Byte) : Instr :=
  if data = [] then
    if reg = 0x03 then .hwinfo
    else if reg = 0x04 then .cellinfo
    else if reg = 0x05 then .hwver
    else .read reg data
  else .read reg data

/-- The name of a write request: the table's most specific row (30_encoding.md R39, R40). -/
def nameWrite (reg : Byte) (data : List Byte) : Instr :=
  if reg = 0xE1 then
    if data = mosfetPayload 0 then .mosfet 0
    else if data = mosfetPayload 1 then .mosfet 1
    else if data = mosfetPayload 2 then .mosfet 2
    else if data = mosfetPayload 3 then .mosfet 3
    else .write reg data
  else if reg = 0x00 then
    if data = [0x56, 0x78] then .eepromOpen else .write reg data
  else if reg = 0x01 then
    if data = [0x00, 0x00] then .eepromClose else .write reg data
  else .write reg data

/-- A request's kind is selected by b1 alone; a response has no opcode (30_encoding.md R39). -/
def nameFrame (dir : Dir) (b1 b2 : Byte) (data : List Byte) : Except Reject Instr :=
  match dir with
  | .response => .ok (.rsp b1 b2 data)
  | .request =>
    if b1 = Config.opRead then .ok (nameRead b2 data)
    else if b1 = Config.opWrite then .ok (nameWrite b2 data)
    else .error .requestOpcodeReserved

/-- A head alone, with the payload it declares left out: only the pseudo-instructions whose payload is fixed are told by it
(the table's rows EEPROM_OPEN and EEPROM_CLOSE; assumption log 6). -/
def nameHead (dir : Dir) (b1 b2 len : Byte) : Except Reject Instr :=
  if dir = .request ∧ b1 = Config.opWrite ∧ len = 0x02 then
    if b2 = 0x00 then .ok .eepromOpen
    else if b2 = 0x01 then .ok .eepromClose
    else .error .lengthWrong
  else .error .lengthWrong

/-- What follows a frame's head: the payload and the three bytes of the tail, which must be the frame's own (the whole frame
of 30_encoding.md R30); the payload with the tail left out; or nothing (assumption log 6). -/
def decodeBody (dir : Dir) (b1 b2 len : Byte) (rest : List Byte) : Except Reject Instr :=
  if rest.length = len.toNat then nameFrame dir b1 b2 rest
  else if rest.length = len.toNat + 3 then
    if rest = rest.take len.toNat ++ Machine.frameTail b2 (rest.take len.toNat) then
      nameFrame dir b1 b2 (rest.take len.toNat)
    else .error .tailWrong
  else if rest = [] then nameHead dir b1 b2 len
  else .error .lengthWrong

/-- A wire packet. -/
def decodeWire (dir : Dir) : List Byte → Except Reject Instr
  | start :: b1 :: b2 :: len :: rest =>
    if start = Config.startMarker then decodeBody dir b1 b2 len rest else .error .headMissing
  | _ => .error .headMissing

/-! ## All ports -/

/-- The instruction a packet presents, or why it presents none. -/
def decode : Packet → Except Reject Instr
  | .cmd bytes => decodeCmd bytes
  | .wire dir bytes => decodeWire dir bytes
  | .text .hex chars => .ok (.txtHex chars)
  | .text .esc chars => .ok (.txtEsc chars)

/-! ## The encoder -/

/-- The selector byte of ENC.REQ: command code 0x4, `rw` in bit 4. -/
def encReqSelector : Rw → Byte
  | .read => 0x04
  | .write => 0x14

/-- The selector byte of DEC.RUN: command code 0x6, `dir` in bit 4. -/
def decRunSelector : Dir → Byte
  | .request => 0x06
  | .response => 0x16

/-- The packet that presents an instruction: command codes from 30_encoding.md R41, whole frames from R30 to R35 and R40. -/
def encode : Instr → Packet
  | .reset => .cmd [0x00]
  | .chkClr => .cmd [0x01]
  | .chkUpd b => .cmd [0x02, b]
  | .chkGet => .cmd [0x03]
  | .encReq rw reg data => .cmd (encReqSelector rw :: reg :: data)
  | .encRsp reg status data => .cmd (0x05 :: reg :: status :: data)
  | .decRun dir inp => .cmd (decRunSelector dir :: inp)
  | .reserved7 => .cmd [0x07]
  | .rsmPush chunk => .cmd (0x08 :: chunk)
  | .rsmFlush => .cmd [0x09]
  | .rsmClr => .cmd [0x0A]
  | .rsmSplit bytes => .cmd (0x0B :: bytes)
  | .reservedCF low => .cmd [(0x0C : Byte) ||| low.setWidth 8]
  | .read reg data => .wire .request (frame Config.opRead reg data)
  | .write reg data => .wire .request (frame Config.opWrite reg data)
  | .rsp reg status data => .wire .response (frame reg status data)
  | .hwinfo => .wire .request (frame Config.opRead 0x03 [])
  | .cellinfo => .wire .request (frame Config.opRead 0x04 [])
  | .hwver => .wire .request (frame Config.opRead 0x05 [])
  | .mosfet m => .wire .request (frame Config.opWrite 0xE1 (mosfetPayload m))
  | .eepromOpen => .wire .request (frame Config.opWrite 0x00 [0x56, 0x78])
  | .eepromClose => .wire .request (frame Config.opWrite 0x01 [0x00, 0x00])
  | .txtHex text => .text .hex text
  | .txtEsc text => .text .esc text

/-! ## The words of spec/opcode_table.json -/

/-- The argument bytes, all zero, that the command code in a selector byte cannot do without. -/
def zeroArguments (sel : Byte) : List Byte :=
  match sel.toNat % 16 with
  | 0x2 => [0x00]
  | 0x4 => [0x00]
  | 0x5 => [0x00, 0x00]
  | _ => []

/-- The four bytes of the head word H, first wire byte in bits 31:24 (30_encoding.md R39). -/
def headBytes (w : Nat) : List Byte :=
  [BitVec.ofNat 8 (w / 16777216), BitVec.ofNat 8 (w / 65536), BitVec.ofNat 8 (w / 256), BitVec.ofNat 8 w]

/-- The direction a head word is taken to travel in: a request where b1 is a request opcode, else a response
(assumption log 5; the rows READ and WRITE lie inside RSP's, 30_encoding.md R39). -/
def headDir (w : Nat) : Dir :=
  if BitVec.ofNat 8 (w / 65536) = Config.opRead ∨ BitVec.ofNat 8 (w / 65536) = Config.opWrite then .request
  else .response

/-- The packet of a head word: the head alone where that presents an instruction, else the head with a payload of zeros. -/
def headPacket (w : Nat) : Packet :=
  match decodeWire (headDir w) (headBytes w) with
  | .ok _ => .wire (headDir w) (headBytes w)
  | .error _ => .wire (headDir w) (headBytes w ++ List.replicate (w % 256) 0x00)

/-- The packet of a word of spec/opcode_table.json: the CMD rows give the selector byte, the WIRE rows the head word H, the
HOST rows no bits, hence no packet. Every bit the table gives no row is zero (assumption log 6). -/
def tablePacket (nbits w : Nat) : Option Packet :=
  if nbits = 0 then none
  else if nbits ≤ 8 then some (.cmd (BitVec.ofNat 8 w :: zeroArguments (BitVec.ofNat 8 w)))
  else some (headPacket w)

/-- The instruction the decoder reads from an instruction whose bits are `w`, numbered as spec/opcode_table.json numbers
them. -/
def decodeTableWord (nbits w : Nat) : Option Instr :=
  match tablePacket nbits w with
  | none => none
  | some p =>
    match decode p with
    | .ok i => some i
    | .error _ => none

end Sys2Proof
end

