-- ==== Sys2Proof/Machine/Issue.lean ====
section
/-! DEFINITION. The engine fetches no instructions (20_memory.md R28): it takes the oldest operation the host has issued.
Here is how an operation is issued and taken (assumption log 2, log 3). -/

namespace Sys2Proof.Machine

/-- The oldest operation issued and not executed, with the state it executes in. -/
def State.take (s : State) : Option (Packet × State) :=
  match s.pending with
  | [] => none
  | p :: rest => some (p, { s with pending := rest })

/-- `s` with `p` as the next operation the engine takes. -/
def State.issueNext (s : State) (p : Packet) : State := { s with pending := p :: s.pending }

/-- `s` with the instruction of a table word as the next operation; a row without bits (nbits 0) has no packet, and nothing
is issued. -/
def State.issueTableWord (s : State) (nbits w : Nat) : State :=
  match tablePacket nbits w with
  | none => s
  | some p => s.issueNext p

end Sys2Proof.Machine
end

