-- ==== Sys2Proof/Machine/Step.lean ====
section
/-! DEFINITION. One step: the engine executes the oldest operation the host has issued, atomically and to completion
(20_memory.md R26); with none issued it waits (70_reset_and_hazards.md R120, R133; assumption log 3). -/

namespace Sys2Proof.Machine

/-- One step of the machine. -/
def step (s : State) : Host.Outcome State Fault Refusal :=
  match s.take with
  | none => .next s
  | some (p, s') =>
    match decode p with
    | .ok i => exec i s'
    | .error why => .refused (.undecodable why)

/-- `s` with the instruction of a word of spec/opcode_table.json issued as its next operation. -/
def State.withFetchWord (s : State) (nbits w : Nat) : State := s.issueTableWord nbits w

end Sys2Proof.Machine
end

