-- ==== Sys2Proof/Machine/Flags.lean ====
section
/-! DEFINITION. The engine has no flags that persist (10_state.md R15). Here are the numeric error codes, the derived items of
the reassembler's buffer (10_state.md R14), the pure views of a frame record (10_state.md R15) and the host's classes of an
outcome (60_exceptions.md R113). No operation reads any of them. -/

namespace Sys2Proof.Machine

/-- The numeric code of an error (60_exceptions.md R101). -/
def ErrCode.code : ErrCode → Nat
  | .tooShort => 1
  | .badStart => 2
  | .badEnd => 3
  | .lengthMismatch => 4
  | .checksumMismatch => 5
  | .payloadTooLong => 6
  | .textRefused => 7

/-- The numeric code of an outcome, 0 for `OK` (60_exceptions.md R101). -/
def Result.code : Result → Nat
  | .ok _ => 0
  | .err c => c.code

/-- `acc.hi` (10_state.md R11). -/
def State.accHi (s : State) : Byte := hi8 s.acc

/-- `acc.lo` (10_state.md R11). -/
def State.accLo (s : State) : Byte := lo8 s.acc

/-- The reassembler's two modes (10_state.md R14; 43_reassembler.md R80). -/
inductive RsmMode
  | hunting
  | collecting
  deriving DecidableEq, Repr

/-- `mode` (10_state.md R14). -/
def State.rsmMode (s : State) : RsmMode := if s.buf = [] then .hunting else .collecting

/-- `len_known` (10_state.md R14). -/
def State.lenKnown (s : State) : Bool := decide (4 ≤ s.buf.length)

/-- `need`, undefined until the LEN byte has arrived (10_state.md R14). -/
def State.need (s : State) : Option Nat :=
  if s.lenKnown then some (Config.overhead + (memRead1 s.buf Config.lenOffset).toNat) else none

/-- `fill` (10_state.md R14). -/
def State.fill (s : State) : Nat := s.buf.length

/-- `is_read` (10_state.md R15). -/
def FrameRecord.isRead (r : FrameRecord) : Bool := decide (r.dir = .request) && decide (r.b1 = Config.opRead)

/-- `is_write` (10_state.md R15). -/
def FrameRecord.isWrite (r : FrameRecord) : Bool := decide (r.dir = .request) && decide (r.b1 = Config.opWrite)

/-- `status_ok` (10_state.md R15). -/
def FrameRecord.statusOk (r : FrameRecord) : Bool := decide (r.dir = .response) && decide (r.b2 = 0x00)

/-- `addressed_to(reg)` (10_state.md R15). -/
def FrameRecord.addressedTo (r : FrameRecord) (reg : Byte) : Bool :=
  decide (r.dir = .response) && decide (r.b1 = reg)

/-- The two classes of the host's taxonomy that an outcome of DEC.RUN alone decides (60_exceptions.md R113). Every nonzero
status is the one opaque DeviceError (30_encoding.md R43). -/
inductive HostError
  | framingError (c : ErrCode)
  | deviceError
  deriving DecidableEq, Repr

/-- The host's class of an outcome of DEC.RUN on a response (60_exceptions.md R113): codes 1 to 5 are FramingError, a
nonzero status in the record is DeviceError. -/
def hostError : Except ErrCode FrameRecord → Option HostError
  | .error .payloadTooLong => none
  | .error .textRefused => none
  | .error c => some (.framingError c)
  | .ok r => if decide (r.dir = .response) && !r.statusOk then some .deviceError else none

/-- The host's test that an attempt succeeds: `Ok`, addressed to the requested register, status 0
(60_exceptions.md R110, step 5). -/
def attemptSucceeds (reg : Byte) : Except ErrCode FrameRecord → Bool
  | .ok r => r.addressedTo reg && r.statusOk
  | .error _ => false

end Sys2Proof.Machine
end

