-- ==== Sys2Proof/Machine/Offline.lean ====
section
/-! DEFINITION. The offline pipeline, end to end (44_text_loader.md R93): a pasted text, its bytes, their candidates, an outcome
for each candidate. It adds no operation: it composes TXT, RSM.SPLIT and DEC.RUN, and touches no state. -/

namespace Sys2Proof.Machine

/-- The bytes of a text, by the encoding `TXT_FMT` that the host says it is in (44_text_loader.md R90, R93). -/
def loadText : TxtFmt → List Nat → Except ErrCode (List Byte)
  | .hex, text => txtHex text
  | .esc, text => txtEsc text

/-- The candidates of an event list, which offline analysis hands to DEC.RUN (44_text_loader.md R93): frames and fragments,
skipped bytes left out. -/
def candidates (events : List Event) : List (List Byte) :=
  events.filterMap fun
    | .frame f => some f
    | .fragment f => some f
    | .skip _ => none

/-- The outcome of DEC.RUN on each candidate, the first having number `k`. `pick` is the analyst's choice of the direction for
each candidate, from its number and its bytes: the spec does not say how it is made (44_text_loader.md R93, N10). -/
def decodeEach (pick : Nat → List Byte → Dir) : Nat → List (List Byte) → List (Except ErrCode FrameRecord)
  | _, [] => []
  | k, f :: rest => decodeFrame (pick k f) f :: decodeEach pick (k + 1) rest

/-- The pipeline after the text loader: split, then decode every candidate (44_text_loader.md R93). -/
def offlineOutcomes (pick : Nat → List Byte → Dir) (bytes : List Byte) : List (Except ErrCode FrameRecord) :=
  decodeEach pick 0 (candidates (splitEvents bytes))

/-- The whole pipeline (44_text_loader.md R93): the outcomes, one per candidate, or the loader's error where it refuses the
text. -/
def offlineAnalysis (fmt : TxtFmt) (pick : Nat → List Byte → Dir) (text : List Nat) :
    Except ErrCode (List (Except ErrCode FrameRecord)) :=
  match loadText fmt text with
  | .ok bytes => .ok (offlineOutcomes pick bytes)
  | .error e => .error e

end Sys2Proof.Machine
end

