-- ==== Sys2Proof/Safety.lean ====
section
/-! DEFINITION. The terms claims are stated in: the reassembler's invariants, what an event list says about the bytes, the
instructions of each unit, and runs of the machine. -/

namespace Sys2Proof.Machine

/-- The three invariants of `st.buf` (10_state.md R13). -/
structure RsmInv (buf : List Byte) : Prop where
  /-- `|st.buf| <= 261`. -/
  bounded : buf.length ≤ 261
  /-- `st.buf = []` or it begins with START. -/
  startsWithStart : buf = [] ∨ buf.head? = some Config.startMarker
  /-- A complete frame never rests in the buffer. -/
  incomplete : 4 ≤ buf.length → buf.length < 7 + (memRead1 buf 3).toNat

/-- The state invariant: the buffer's. Every value of `st.acc` is legal (10_state.md R11). -/
abbrev State.Inv (s : State) : Prop := RsmInv s.buf

/-- The arithmetic sum of the bytes of a sequence (40_checksum.md R53). -/
def byteSum (s : List Byte) : Nat := (s.map BitVec.toNat).sum

/-- The closed form of the checksum, `u16(-(s[0] + s[1] + ...))`, as a number (40_checksum.md R53). -/
def sumChecksum (s : List Byte) : Nat := (65536 - byteSum s % 65536) % 65536

/-- The bytes of a frame from the closed form of its checksum (30_encoding.md R30, R35; 41_frame_encoder.md R60), for claims
to hold the encoder's `frame` against. -/
def frameBytes (b1 b2 : Byte) (data : List Byte) : List Byte :=
  [0xDD, b1, b2, BitVec.ofNat 8 data.length] ++ data ++
    [BitVec.ofNat 8 (sumChecksum (b2 :: BitVec.ofNat 8 data.length :: data) / 256),
      BitVec.ofNat 8 (sumChecksum (b2 :: BitVec.ofNat 8 data.length :: data) % 256), 0x77]

/-- The record of a frame found at index `start` (42_frame_decoder.md R70; 41_frame_encoder.md R64). -/
def frameRecord (dir : Dir) (start : Nat) (b1 b2 : Byte) (data : List Byte) : FrameRecord where
  dir := dir
  start := start
  b1 := b1
  b2 := b2
  len := BitVec.ofNat 8 data.length
  data := data
  crc := BitVec.ofNat 16 (sumChecksum (b2 :: BitVec.ofNat 8 data.length :: data))
  checksumValid := true

/-- A state after one outcome, nothing else changed. -/
abbrev State.after (s : State) (r : Result) : State := { s with results := s.results ++ [r] }

/-- The bytes an event carries (43_reassembler.md R80). -/
def Event.payload : Event → List Byte
  | .frame f => f
  | .fragment f => f
  | .skip b => [b]

/-- The bytes of an event list, in order (43_reassembler.md R89). -/
def payloads (events : List Event) : List Byte := events.flatMap Event.payload

/-- What the table of 43_reassembler.md R80 says of each event. -/
def Event.Shape : Event → Prop
  | .frame f => 7 ≤ f.length ∧ f.length ≤ 262 ∧ f.head? = some Config.startMarker ∧ f.length = 7 + (memRead1 f 3).toNat
  | .fragment f => f ≠ [] ∧ RsmInv f
  | .skip b => b ≠ Config.startMarker

/-- The operations of CHK. -/
def isChk : Instr → Bool
  | .chkClr => true
  | .chkUpd _ => true
  | .chkGet => true
  | _ => false

/-- The operations of RSM. -/
def isRsm : Instr → Bool
  | .rsmPush _ => true
  | .rsmFlush => true
  | .rsmClr => true
  | .rsmSplit _ => true
  | _ => false

/-- The command codes that select no operation (30_encoding.md R42). -/
def isReserved : Instr → Bool
  | .reserved7 => true
  | .reservedCF _ => true
  | _ => false

/-- The operations whose outcome is a function of their arguments alone: those of ENC and DEC, the wire kinds, and the text
loader (10_state.md R10, R12; 44_text_loader.md R90). -/
def isStateless : Instr → Bool
  | .encReq _ _ _ => true
  | .encRsp _ _ _ => true
  | .decRun _ _ => true
  | .read _ _ => true
  | .write _ _ => true
  | .rsp _ _ _ => true
  | .hwinfo => true
  | .cellinfo => true
  | .hwver => true
  | .mosfet _ => true
  | .eepromOpen => true
  | .eepromClose => true
  | .txtHex _ => true
  | .txtEsc _ => true
  | _ => false

/-- The command code `op[3:0]` of a packet on the command port (30_encoding.md R41). -/
def commandCode : Packet → Option Nat
  | .cmd (sel :: _) => some (sel.toNat % 16)
  | _ => none

/-- `i` is the index of the first START byte of a sequence (42_frame_decoder.md R71). -/
def FirstStart (inp : List Byte) (i : Nat) : Prop :=
  inp[i]? = some Config.startMarker ∧ ∀ j, j < i → inp[j]? ≠ some Config.startMarker

/-- The LEN a frame that starts at index `i` declares (30_encoding.md R37). -/
def declaredLen (inp : List Byte) (i : Nat) : Nat := (inp.getD (i + 3) 0).toNat

/-- `c` is a hexadecimal digit of value `v` (44_text_loader.md R91). -/
def DigitValue (c v : Nat) : Prop :=
  (48 ≤ c ∧ c ≤ 57 ∧ v = c - 48) ∨ (65 ≤ c ∧ c ≤ 70 ∧ v = c - 55) ∨ (97 ≤ c ∧ c ≤ 102 ∧ v = c - 87)

/-- The letter escapes and their bytes: `\0`, `\n`, `\r`, `\t`, and the backslash itself (44_text_loader.md R92). -/
def letterEscapes : List (Nat × Byte) := [(48, 0x00), (110, 0x0A), (114, 0x0D), (116, 0x09), (92, 0x5C)]

/-- What follows a backslash makes a hexadecimal escape: `x` and two hexadecimal digits (44_text_loader.md R92). -/
def HexEscapeAhead (text : List Nat) : Prop :=
  ∃ h l hv lv rest, text = 120 :: h :: l :: rest ∧ DigitValue h hv ∧ DigitValue l lv

/-- What follows a backslash makes a letter escape (44_text_loader.md R92). -/
def LetterEscapeAhead (text : List Nat) : Prop := ∃ e b rest, text = e :: rest ∧ (e, b) ∈ letterEscapes

/-- 44_text_loader.md R92 as a relation: which bytes a text reads as. The backslash is character 92, `x` is 120. -/
inductive EscReads : List Nat → List Byte → Prop
  | done : EscReads [] []
  | hex (h l hv lv : Nat) (rest : List Nat) (bs : List Byte) :
      DigitValue h hv → DigitValue l lv → EscReads rest bs →
      EscReads (92 :: 120 :: h :: l :: rest) (BitVec.ofNat 8 (16 * hv + lv) :: bs)
  | letter (e : Nat) (b : Byte) (rest : List Nat) (bs : List Byte) :
      (e, b) ∈ letterEscapes → EscReads rest bs → EscReads (92 :: e :: rest) (b :: bs)
  | backslash (rest : List Nat) (bs : List Byte) :
      ¬ HexEscapeAhead rest → ¬ LetterEscapeAhead rest → EscReads rest bs → EscReads (92 :: rest) (0x5C :: bs)
  | literal (c : Nat) (rest : List Nat) (bs : List Byte) :
      c ≠ 92 → EscReads rest bs → EscReads (c :: rest) (BitVec.ofNat 8 c :: bs)

/-- The instruction of the text loader for a text in an encoding (44_text_loader.md R93). -/
def textInstr : TxtFmt → List Nat → Instr
  | .hex, text => .txtHex text
  | .esc, text => .txtEsc text

/-- The hexadecimal digit of a value below 16, in upper case (44_text_loader.md R91). -/
def digitChar (v : Nat) : Nat := if v < 10 then 48 + v else 55 + v

/-- A byte written as a hexadecimal escape: a backslash, `x` and two digits (44_text_loader.md R92). -/
def hexEscaped (b : Byte) : List Nat := [92, 120, digitChar (b.toNat / 16), digitChar (b.toNat % 16)]

/-- The state in which the host has issued the operations `is`, in order, and the engine has executed none. -/
def State.issue (s : State) (is : List Instr) : State := { s with pending := s.pending ++ is.map encode }

/-- A run of `n` steps, stopping at the first fault or refusal (70_reset_and_hazards.md R133). -/
def runSteps : Nat → State → Host.Outcome State Fault Refusal
  | 0, s => .next s
  | n + 1, s =>
    match step s with
    | .next t => runSteps n t
    | .fault r => .fault r
    | .refused r => .refused r

end Sys2Proof.Machine
end

