-- ==== Sys2Proof/Certificates/Slice0/Obligations.lean ====
section
/-! DEFINITION. The statements for the provers. Each docstring names the rule of spec/ it formalises, and the spec's decision
(D<n>) or the model's choice (log <n>) where it rests on one. -/

open Sys2Proof Sys2Proof.Machine

/-! ## Encoding -/

/-- 30_encoding.md R31, R40, R41: the command codes without arguments, and the frames the spec writes out, decode to the
operations they stand for. A command packet's form is the model's (log 1). The last clause is the model's own too (log 5): R42
(a) calls such a request reserved, and that the decoder of packets rejects it is the model's choice; DEC.RUN does not. -/
def Obligations.DecodesWordsOfTheSpec : Prop :=
  decode (.cmd [0x00]) = .ok .reset ∧
  decode (.cmd [0x01]) = .ok .chkClr ∧
  decode (.cmd [0x02, 0xE1]) = .ok (.chkUpd 0xE1) ∧
  decode (.cmd [0x06, 0xDD, 0x03]) = .ok (.decRun .request [0xDD, 0x03]) ∧
  decode (.cmd [0x0B, 0xDD]) = .ok (.rsmSplit [0xDD]) ∧
  decode (.cmd [0x0F]) = .ok (.reservedCF 3) ∧
  decode (.wire .request [0xDD, 0xA5, 0x03, 0x00, 0xFF, 0xFD, 0x77]) = .ok .hwinfo ∧
  decode (.wire .request [0xDD, 0xA5, 0x10, 0x00, 0xFF, 0xF0, 0x77]) = .ok (.read 0x10 []) ∧
  decode (.wire .request [0xDD, 0x5A, 0xE1, 0x02, 0x00, 0x00, 0xFF, 0x1D, 0x77]) = .ok (.mosfet 0) ∧
  decode (.wire .request [0xDD, 0x5A, 0x00, 0x02, 0x56, 0x78, 0xFF, 0x30, 0x77]) = .ok .eepromOpen ∧
  decode (.wire .request [0xDD, 0x5A, 0x10, 0x02, 0x27, 0x10, 0xFF, 0xB7, 0x77]) = .ok (.write 0x10 [0x27, 0x10]) ∧
  decode (.wire .response [0xDD, 0xA5, 0x03, 0x00, 0xFF, 0xFD, 0x77]) = .ok (.rsp 0xA5 0x03 []) ∧
  decode (.wire .request [0xDD, 0x12, 0x03, 0x00, 0xFF, 0xFD, 0x77]) = .error .requestOpcodeReserved

/-- Decode and encode agree on every well-formed instruction. The packets' form is the model's (log 1, log 6). -/
def Obligations.DecodeOfEncodeIsTheInstruction : Prop :=
  ∀ i : Instr, wellFormed i = true → decode (encode i) = .ok i

/-- The decoder answers well-formed instructions only. -/
def Obligations.DecodeAnswersWellFormedInstructions : Prop :=
  ∀ (p : Packet) (i : Instr), decode p = .ok i → wellFormed i = true

/-- 30_encoding.md R39, R40: a whole frame on the wire has one reading, and that reading encodes to the frame. That a request is
read exactly when its b1 is a request opcode is the model's choice for packets (log 5): R42 (a) calls another b1 reserved, and
DEC.RUN does not refuse it. -/
def Obligations.WholeFramesHaveOneReading : Prop :=
  ∀ (dir : Dir) (b1 b2 : Byte) (data : List Byte), data.length ≤ 255 →
    (∀ i, decode (.wire dir (frame b1 b2 data)) = .ok i → encode i = .wire dir (frame b1 b2 data)) ∧
    ((∃ i, decode (.wire dir (frame b1 b2 data)) = .ok i) ↔ (dir = .response ∨ b1 = 0xA5 ∨ b1 = 0x5A))

/-! ## The step, reset, the reserved codes -/

/-- 20_memory.md R26, R28: a step executes the oldest operation issued, and nothing else; with none issued the engine waits.
How operations are issued is the model's (log 1, log 2, log 3). -/
def Obligations.StepExecutesTheOldestOperation : Prop :=
  (∀ (s : State) (p : Packet) (rest : List Packet) (i : Instr), s.pending = p :: rest → decode p = .ok i →
    step s = exec i { s with pending := rest }) ∧
  (∀ (s : State) (p : Packet) (rest : List Packet) (why : Reject), s.pending = p :: rest → decode p = .error why →
    step s = .refused (.undecodable why)) ∧
  (∀ s : State, s.pending = [] → step s = .next s)

/-- 10_state.md R17 (decision D4): the state after reset. -/
def Obligations.ResetStateIsTheSpecs : Prop :=
  State.reset.acc = 0x0000 ∧ State.reset.buf = [] ∧ State.reset.rsmMode = .hunting

/-- 70_reset_and_hazards.md R120 (decision D4): RESET always succeeds, clears both elements, and equals CHK.CLR followed by
RSM.CLR on them. -/
def Obligations.ResetClearsBothElements : Prop :=
  commandCode (encode .reset) = some 0x0 ∧
  ∀ s : State,
    exec .reset s = .next { s with acc := 0x0000, buf := [], results := s.results ++ [.ok .unit] } ∧
    ∃ t u, exec .chkClr s = .next t ∧ exec .rsmClr t = .next u ∧ u.acc = 0x0000 ∧ u.buf = []

/-- 30_encoding.md R42 (decision D2): the reserved command codes are refused in every state. -/
def Obligations.ReservedCodesAreRefused : Prop :=
  (∀ s : State, exec .reserved7 s = .refused (.reservedCommand 0x7)) ∧
  (∀ (low : BitVec 2) (s : State),
    exec (.reservedCF low) s = .refused (.reservedCommand (BitVec.ofNat 4 (12 + low.toNat)))) ∧
  commandCode (encode .reserved7) = some 0x7 ∧
  (∀ low : BitVec 2, commandCode (encode (.reservedCF low)) = some (12 + low.toNat))

/-! ## CHK -/

/-- 40_checksum.md R50. -/
def Obligations.ChkClrClearsTheAccumulator : Prop :=
  commandCode (encode .chkClr) = some 0x1 ∧
  ∀ s : State, exec .chkClr s = .next { s with acc := 0x0000, results := s.results ++ [.ok .unit] }

/-- 40_checksum.md R51. -/
def Obligations.ChkUpdSubtractsTheByte : Prop :=
  ∀ (b : Byte) (s : State),
    commandCode (encode (.chkUpd b)) = some 0x2 ∧
    exec (.chkUpd b) s = .next
      { s with acc := BitVec.ofNat 16 ((s.acc.toNat + 65536 - b.toNat) % 65536), results := s.results ++ [.ok .unit] }

/-- 40_checksum.md R52: the accumulator is returned and unchanged; its wire bytes are the high byte, then the low. -/
def Obligations.ChkGetReturnsTheAccumulator : Prop :=
  commandCode (encode .chkGet) = some 0x3 ∧
  ∀ s : State,
    exec .chkGet s = .next (s.after (.ok (.word s.acc))) ∧
    s.accHi.toNat = s.acc.toNat / 256 ∧ s.accLo.toNat = s.acc.toNat % 256

/-- 40_checksum.md R53: a run of CHK.CLR, CHK.UPD for every byte of a sequence, CHK.GET returns `chk16` of the sequence, and
touches nothing but the accumulator. The run's packets are the model's (log 1, log 2). -/
def Obligations.ChecksumRunReturnsChk16 : Prop :=
  ∀ (bytes : List Byte) (s : State), s.pending = [] →
    runSteps (bytes.length + 2) (s.issue (.chkClr :: bytes.map .chkUpd ++ [.chkGet])) = .next
      { acc := chk16 bytes, buf := s.buf, pending := [],
        results := s.results ++ List.replicate (bytes.length + 1) (.ok .unit) ++ [.ok (.word (chk16 bytes))] }

/-- 40_checksum.md R53: the recursive definition, and the closed form, the negated sum modulo 65536. -/
def Obligations.Chk16IsTheNegatedSum : Prop :=
  chk16 [] = 0x0000 ∧
  (∀ (s : List Byte) (b : Byte), chk16 (s ++ [b]) = chk16 s - b.setWidth 16) ∧
  (∀ s : List Byte, (chk16 s).toNat = sumChecksum s)

/-- 40_checksum.md R54 (e), concatenation and verification. -/
def Obligations.Chk16OfConcatenation : Prop :=
  (∀ s t : List Byte, chk16 (s ++ t) = chk16 s + chk16 t) ∧
  (∀ s : List Byte, ((chk16 s).toNat + byteSum s) % 65536 = 0)

/-- 40_checksum.md R54 (e), permutation. -/
def Obligations.Chk16IgnoresOrder : Prop :=
  ∀ s t : List Byte, s.Perm t → chk16 s = chk16 t

/-- 40_checksum.md R54 (e), zero bytes and compensation. -/
def Obligations.Chk16BlindSpots : Prop :=
  (∀ s t : List Byte, chk16 (s ++ 0x00 :: t) = chk16 (s ++ t)) ∧
  (∀ (s t u : List Byte) (a b a' b' : Byte), a.toNat + b.toNat = a'.toNat + b'.toNat →
    chk16 (s ++ a :: t ++ b :: u) = chk16 (s ++ a' :: t ++ b' :: u))

/-- 40_checksum.md R54 (e), single change: two sequences that differ in one byte have different checksums. -/
def Obligations.Chk16SeesASingleChange : Prop :=
  ∀ (s t : List Byte) (a b : Byte), chk16 (s ++ a :: t) = chk16 (s ++ b :: t) ↔ a = b

/-- 40_checksum.md R55: within the 257 bytes a frame's checksum covers, it is 0 exactly when every byte is 0, and otherwise
65536 minus the sum. -/
def Obligations.Chk16WithinAFrame : Prop :=
  ∀ s : List Byte, s.length ≤ 257 →
    byteSum s ≤ 65535 ∧
    (chk16 s = 0x0000 ↔ ∀ b ∈ s, b = 0x00) ∧
    ((∃ b ∈ s, b ≠ 0x00) → (chk16 s).toNat = 65536 - byteSum s)

/-! ## ENC -/

/-- 41_frame_encoder.md R61, with R60 and R35 for the bytes: ENC.REQ returns the frame, or PAYLOAD_TOO_LONG exactly when the
payload has more than 255 bytes; no state element is written. -/
def Obligations.EncReqReturnsTheRequestFrame : Prop :=
  ∀ (rw : Rw) (reg : Byte) (data : List Byte) (s : State),
    commandCode (encode (.encReq rw reg data)) = some 0x4 ∧
    (data.length ≤ 255 → exec (.encReq rw reg data) s = .next
      (s.after (.ok (.bytes (frameBytes (if rw = .read then 0xA5 else 0x5A) reg data))))) ∧
    (255 < data.length → exec (.encReq rw reg data) s = .next (s.after (.err .payloadTooLong)))

/-- 41_frame_encoder.md R62 (decision D6): ENC.RSP. -/
def Obligations.EncRspReturnsTheResponseFrame : Prop :=
  ∀ (reg status : Byte) (data : List Byte) (s : State),
    commandCode (encode (.encRsp reg status data)) = some 0x5 ∧
    (data.length ≤ 255 →
      exec (.encRsp reg status data) s = .next (s.after (.ok (.bytes (frameBytes reg status data))))) ∧
    (255 < data.length → exec (.encRsp reg status data) s = .next (s.after (.err .payloadTooLong)))

/-- 41_frame_encoder.md R64 item 1, with 20_memory.md R25 and 30_encoding.md R30, R35, R36: the length of a frame and the byte at
every offset. -/
def Obligations.FrameHasItsLayout : Prop :=
  ∀ (b1 b2 : Byte) (data : List Byte), data.length ≤ 255 →
    (frame b1 b2 data).length = 7 + data.length ∧
    (frame b1 b2 data)[0]? = some 0xDD ∧
    (frame b1 b2 data)[1]? = some b1 ∧
    (frame b1 b2 data)[2]? = some b2 ∧
    ((frame b1 b2 data)[3]?.map BitVec.toNat) = some data.length ∧
    (∀ k, k < data.length → (frame b1 b2 data)[4 + k]? = data[k]?) ∧
    ((frame b1 b2 data)[4 + data.length]?.map BitVec.toNat) =
      some (sumChecksum (b2 :: BitVec.ofNat 8 data.length :: data) / 256) ∧
    ((frame b1 b2 data)[5 + data.length]?.map BitVec.toNat) =
      some (sumChecksum (b2 :: BitVec.ofNat 8 data.length :: data) % 256) ∧
    (frame b1 b2 data)[6 + data.length]? = some 0x77

/-- 41_frame_encoder.md R64 item 5: a frame determines its fields. -/
def Obligations.FrameIsInjective : Prop :=
  ∀ (b1 b2 c1 c2 : Byte) (data data' : List Byte), data.length ≤ 255 → data'.length ≤ 255 →
    frame b1 b2 data = frame c1 c2 data' → b1 = c1 ∧ b2 = c2 ∧ data = data'

/-! ## The wire kinds -/

/-- 30_encoding.md R45 with 41_frame_encoder.md R61 and R62: READ, WRITE and RSP expand to their frames. That a wire kind is
executed by building its frame is the model's reading (log 4). -/
def Obligations.WireKindsExpandToTheirFrames : Prop :=
  ∀ (reg status : Byte) (data : List Byte) (s : State),
    (data.length ≤ 255 →
      exec (.read reg data) s = .next (s.after (.ok (.bytes (frameBytes 0xA5 reg data)))) ∧
      exec (.write reg data) s = .next (s.after (.ok (.bytes (frameBytes 0x5A reg data)))) ∧
      exec (.rsp reg status data) s = .next (s.after (.ok (.bytes (frameBytes reg status data))))) ∧
    (255 < data.length →
      exec (.read reg data) s = .next (s.after (.err .payloadTooLong)) ∧
      exec (.write reg data) s = .next (s.after (.err .payloadTooLong)) ∧
      exec (.rsp reg status data) s = .next (s.after (.err .payloadTooLong)))

/-- 30_encoding.md R40, R45: the pseudo-instructions expand to the frames the spec writes out. That a wire kind is executed by
building its frame is the model's reading (log 4). -/
def Obligations.PseudoInstructionsExpandToTheirFrames : Prop :=
  ∀ s : State,
    exec .hwinfo s = .next (s.after (.ok (.bytes [0xDD, 0xA5, 0x03, 0x00, 0xFF, 0xFD, 0x77]))) ∧
    exec .cellinfo s = .next (s.after (.ok (.bytes [0xDD, 0xA5, 0x04, 0x00, 0xFF, 0xFC, 0x77]))) ∧
    exec .hwver s = .next (s.after (.ok (.bytes [0xDD, 0xA5, 0x05, 0x00, 0xFF, 0xFB, 0x77]))) ∧
    (∀ m : BitVec 2, exec (.mosfet m) s = .next (s.after (.ok (.bytes
      [0xDD, 0x5A, 0xE1, 0x02, 0x00, BitVec.ofNat 8 m.toNat, 0xFF, BitVec.ofNat 8 (0x1D - m.toNat), 0x77])))) ∧
    exec .eepromOpen s = .next (s.after (.ok (.bytes [0xDD, 0x5A, 0x00, 0x02, 0x56, 0x78, 0xFF, 0x30, 0x77]))) ∧
    exec .eepromClose s = .next (s.after (.ok (.bytes [0xDD, 0x5A, 0x01, 0x02, 0x00, 0x00, 0xFF, 0xFD, 0x77])))

/-! ## DEC -/

/-- 41_frame_encoder.md R64 items 2 and 3, 42_frame_decoder.md R73 (decision D9): a frame, behind noise without a START byte
and before any bytes at all, decodes to its own fields, in either direction. -/
def Obligations.FramesDecodeToTheirFields : Prop :=
  ∀ (dir : Dir) (noise trailing : List Byte) (b1 b2 : Byte) (data : List Byte) (s : State),
    data.length ≤ 255 → (0xDD : Byte) ∉ noise →
    exec (.decRun dir (noise ++ frame b1 b2 data ++ trailing)) s = .next
      (s.after (.ok (.record (frameRecord dir noise.length b1 b2 data))))

/-- 42_frame_decoder.md R70 to R74 (decisions D8 to D10): a record is returned only for an input that is noise without a START
byte, then the record's own frame, then anything: the decoder accepts nothing else. -/
def Obligations.RecordsComeFromFrames : Prop :=
  ∀ (dir : Dir) (inp : List Byte) (s : State) (r : FrameRecord),
    exec (.decRun dir inp) s = .next (s.after (.ok (.record r))) →
    ∃ noise trailing, (0xDD : Byte) ∉ noise ∧ r.data.length ≤ 255 ∧
      inp = noise ++ frame r.b1 r.b2 r.data ++ trailing ∧ r = frameRecord dir noise.length r.b1 r.b2 r.data

/-- 42_frame_decoder.md R72, 60_exceptions.md R102 and R104 (decision D8): each outcome of DEC.RUN, and exactly when;
30_encoding.md R41 (decision D2): its command code. -/
def Obligations.DecOutcomesExactly : Prop :=
  ∀ (dir : Dir) (inp : List Byte) (s : State), commandCode (encode (.decRun dir inp)) = some 0x6 ∧ ∃ r : Result,
    exec (.decRun dir inp) s = .next (s.after r) ∧
    (r = .err .tooShort ↔ inp.length < 7 ∨ ∃ i, FirstStart inp i ∧ inp.length - i < 7) ∧
    (r = .err .badStart ↔ 7 ≤ inp.length ∧ (0xDD : Byte) ∉ inp) ∧
    (r = .err .lengthMismatch ↔
      ∃ i, FirstStart inp i ∧ 7 ≤ inp.length - i ∧ inp.length - i < 7 + declaredLen inp i) ∧
    (r = .err .badEnd ↔
      ∃ i, FirstStart inp i ∧ 7 + declaredLen inp i ≤ inp.length - i ∧
        inp[i + 6 + declaredLen inp i]? ≠ some 0x77) ∧
    (r = .err .checksumMismatch ↔
      ∃ i hi lo, FirstStart inp i ∧ 7 + declaredLen inp i ≤ inp.length - i ∧
        inp[i + 6 + declaredLen inp i]? = some 0x77 ∧
        inp[i + 4 + declaredLen inp i]? = some hi ∧ inp[i + 5 + declaredLen inp i]? = some lo ∧
        sumChecksum ((inp.drop (i + 2)).take (2 + declaredLen inp i)) ≠ hi.toNat * 256 + lo.toNat) ∧
    ((∃ fields, r = .ok (.record fields)) ↔
      r ≠ .err .tooShort ∧ r ≠ .err .badStart ∧ r ≠ .err .lengthMismatch ∧ r ≠ .err .badEnd ∧
        r ≠ .err .checksumMismatch)

/-- 42_frame_decoder.md R70 (decision D7): the direction names the fields of the record and changes nothing else. -/
def Obligations.DirectionOnlyNamesTheFields : Prop :=
  ∀ (inp : List Byte) (s : State),
    (∃ r, exec (.decRun .request inp) s = .next (s.after (.ok (.record r))) ∧
      exec (.decRun .response inp) s = .next (s.after (.ok (.record { r with dir := .response })))) ∨
    (∃ c, exec (.decRun .request inp) s = .next (s.after (.err c)) ∧
      exec (.decRun .response inp) s = .next (s.after (.err c)))

/-- 40_checksum.md R56, 90_conflicts.md C4: a change of exactly one covered byte other than LEN (b2, or one DATA byte) is always
reported as a checksum mismatch. -/
def Obligations.SingleByteChangeIsDetected : Prop :=
  ∀ (dir : Dir) (b1 b2 : Byte) (data : List Byte) (k : Nat) (v : Byte) (s : State),
    data.length ≤ 255 → (k = 2 ∨ (4 ≤ k ∧ k < 4 + data.length)) → (frame b1 b2 data)[k]? ≠ some v →
    exec (.decRun dir ((frame b1 b2 data).set k v)) s = .next (s.after (.err .checksumMismatch))

/-- 42_frame_decoder.md R74 (a) and (f), 70_reset_and_hazards.md R126 and R128: b1 is covered by no test, and neither is the
order of the payload bytes. -/
def Obligations.UncheckedChangesDecode : Prop :=
  ∀ (dir : Dir) (b1 b2 v : Byte) (data data' : List Byte) (s : State), data.length ≤ 255 → data.Perm data' →
    exec (.decRun dir ((frame b1 b2 data).take 1 ++ v :: b2 :: (frame b1 b2 data).getD 3 0 :: data' ++
        (frame b1 b2 data).drop (4 + data.length))) s = .next
      (s.after (.ok (.record (frameRecord dir 0 v b2 data'))))

/-- 42_frame_decoder.md R75: DEC on what RSM emits. A candidate frame decodes, or its END or checksum is wrong; a fragment is
too short or a length mismatch, never a frame. -/
def Obligations.DecOnReassemblerOutput : Prop :=
  ∀ (dir : Dir) (f : List Byte) (s : State),
    ((Event.frame f).Shape →
      (∃ r, r.start = 0 ∧ exec (.decRun dir f) s = .next (s.after (.ok (.record r)))) ∨
      exec (.decRun dir f) s = .next (s.after (.err .badEnd)) ∨
      exec (.decRun dir f) s = .next (s.after (.err .checksumMismatch))) ∧
    ((Event.fragment f).Shape →
      (f.length < 7 → exec (.decRun dir f) s = .next (s.after (.err .tooShort))) ∧
      (7 ≤ f.length → exec (.decRun dir f) s = .next (s.after (.err .lengthMismatch))))

/-! ## RSM -/

/-- 43_reassembler.md R81, R83 (decisions D13, D14): what one byte does, hunting and collecting; 30_encoding.md R41 (decision D2):
the command code of RSM.PUSH, whatever the chunk. -/
def Obligations.PushOfOneByte : Prop :=
  (∀ chunk : List Byte, commandCode (encode (.rsmPush chunk)) = some 0x8) ∧
  ∀ (b : Byte) (s : State),
    (s.buf = [] → b = 0xDD → exec (.rsmPush [b]) s = .next (({ s with buf := [b] }).after (.ok (.events [])))) ∧
    (s.buf = [] → b ≠ 0xDD → exec (.rsmPush [b]) s = .next (s.after (.ok (.events [.skip b])))) ∧
    (s.buf ≠ [] → 4 ≤ s.buf.length + 1 → s.buf.length + 1 = 7 + ((s.buf ++ [b]).getD 3 0).toNat →
      exec (.rsmPush [b]) s = .next (({ s with buf := [] }).after (.ok (.events [.frame (s.buf ++ [b])])))) ∧
    (s.buf ≠ [] → (s.buf.length + 1 < 4 ∨ s.buf.length + 1 ≠ 7 + ((s.buf ++ [b]).getD 3 0).toNat) →
      exec (.rsmPush [b]) s = .next (({ s with buf := s.buf ++ [b] }).after (.ok (.events []))))

/-- 43_reassembler.md R82, R89 (a): RSM.PUSH always succeeds, and chunk boundaries carry no meaning. -/
def Obligations.ChunkBoundariesCarryNoMeaning : Prop :=
  ∀ (c1 c2 : List Byte) (s : State), ∃ buf1 buf2 e1 e2,
    exec (.rsmPush c1) s = .next (({ s with buf := buf1 }).after (.ok (.events e1))) ∧
    exec (.rsmPush c2) (({ s with buf := buf1 }).after (.ok (.events e1))) = .next
      ((({ s with buf := buf2 }).after (.ok (.events e1))).after (.ok (.events e2))) ∧
    exec (.rsmPush (c1 ++ c2)) s = .next (({ s with buf := buf2 }).after (.ok (.events (e1 ++ e2))))

/-- 43_reassembler.md R82, R89 (b): RSM.PUSH always succeeds, and no byte is invented, reordered or lost. -/
def Obligations.PushConservesBytes : Prop :=
  ∀ (chunk : List Byte) (s : State), ∃ buf events,
    exec (.rsmPush chunk) s = .next (({ s with buf := buf }).after (.ok (.events events))) ∧
    payloads events ++ buf = s.buf ++ chunk

/-- 43_reassembler.md R80, R82: from a state that meets the invariant, the events of RSM.PUSH have the shapes the spec gives
them, none a fragment, and the invariant is kept. -/
def Obligations.PushEmitsWellShapedEvents : Prop :=
  ∀ (chunk : List Byte) (s : State), s.Inv → ∃ buf events,
    exec (.rsmPush chunk) s = .next (({ s with buf := buf }).after (.ok (.events events))) ∧ RsmInv buf ∧
    ∀ e ∈ events, e.Shape ∧ ∀ f, e ≠ .fragment f

/-- 43_reassembler.md R89 (c) and (d), 41_frame_encoder.md R64 item 4: a stream of well-formed frames, each behind any noise
without a START byte, and such noise at the end, is cut into exactly those frames, every noise byte reported as a Skip
(decision D13). -/
def Obligations.CleanStreamIsCutIntoItsFrames : Prop :=
  ∀ (items : List (List Byte × Byte × Byte × List Byte)) (last : List Byte) (s : State),
    s.buf = [] → (∀ it ∈ items, (0xDD : Byte) ∉ it.1 ∧ it.2.2.2.length ≤ 255) → (0xDD : Byte) ∉ last →
    exec (.rsmPush (items.flatMap (fun it => it.1 ++ frame it.2.1 it.2.2.1 it.2.2.2) ++ last)) s = .next
      (s.after (.ok (.events
        (items.flatMap (fun it => it.1.map .skip ++ [.frame (frame it.2.1 it.2.2.1 it.2.2.2)]) ++ last.map .skip))))

/-- 43_reassembler.md R85 (decision D15). -/
def Obligations.FlushEmitsTheRemainder : Prop :=
  commandCode (encode .rsmFlush) = some 0x9 ∧
  ∀ s : State, exec .rsmFlush s = .next
    (({ s with buf := [] }).after (.ok (.events (if s.buf = [] then [] else [.fragment s.buf]))))

/-- 43_reassembler.md R86 (decision D17). -/
def Obligations.RsmClrDiscardsTheBuffer : Prop :=
  commandCode (encode .rsmClr) = some 0xA ∧
  ∀ s : State, exec .rsmClr s = .next (({ s with buf := [] }).after (.ok .unit))

/-- 43_reassembler.md R87: RSM.SPLIT is RSM.CLR, RSM.PUSH and RSM.FLUSH, in one operation with one outcome; 30_encoding.md R41
(decision D2): its command code. -/
def Obligations.SplitIsClrPushFlush : Prop :=
  ∀ (bytes : List Byte) (s : State), commandCode (encode (.rsmSplit bytes)) = some 0xB ∧ ∃ t u buf e1 e2,
    exec .rsmClr s = .next t ∧
    exec (.rsmPush bytes) t = .next u ∧ u = ({ t with buf := buf }).after (.ok (.events e1)) ∧
    exec .rsmFlush u = .next (({ u with buf := [] }).after (.ok (.events e2))) ∧
    exec (.rsmSplit bytes) s = .next (({ s with buf := [] }).after (.ok (.events (e1 ++ e2))))

/-- 43_reassembler.md R87, R89: RSM.SPLIT accounts for every byte it is given, whatever the buffer held; at most its last event
is a fragment, and every event has its shape. -/
def Obligations.SplitConservesBytes : Prop :=
  ∀ (bytes : List Byte) (s : State), ∃ events last,
    exec (.rsmSplit bytes) s = .next (({ s with buf := [] }).after (.ok (.events (events ++ last)))) ∧
    payloads (events ++ last) = bytes ∧
    (∀ e ∈ events, ∀ f, e ≠ .fragment f) ∧ (last = [] ∨ ∃ f, last = [.fragment f]) ∧
    (∀ e ∈ events ++ last, e.Shape)

/-- 10_state.md R13, 43_reassembler.md R88: every step keeps the buffer's three invariants, from every state that meets them. -/
def Obligations.EveryStepKeepsTheBufferInvariant : Prop :=
  ∀ s t : State, s.Inv → step s = .next t → t.Inv

/-- 10_state.md R13: the state after reset meets the invariants. -/
def Obligations.ResetMeetsTheBufferInvariant : Prop := State.reset.Inv

/-- 10_state.md R14: while collecting with LEN known, fewer bytes are held than the frame needs, which is 7 + LEN and
never more than the buffer's capacity. -/
def Obligations.CollectingNeedsMoreBytes : Prop :=
  ∀ s : State, s.Inv →
    (s.rsmMode = .hunting ↔ s.fill = 0) ∧
    (s.lenKnown = false → s.need = none ∧ s.fill < 4) ∧
    (s.lenKnown = true → s.rsmMode = .collecting ∧
      ∃ n, s.need = some n ∧ n = 7 + (s.buf.getD 3 0).toNat ∧ s.fill < n ∧ n ≤ Config.rsmCap)

/-! ## TXT -/

/-- 44_text_loader.md R90, R91 (decision D20): TXT.HEX reads the digits of a text in pairs, delimiters removed, and refuses a
text with any other character or an odd number of digits. -/
def Obligations.TxtHexReadsDigitPairs : Prop :=
  ∀ (text digits : List Nat) (s : State), digits = text.filter (fun c => c ∉ [32, 58, 44]) →
    ((∀ c ∈ digits, ∃ v, DigitValue c v) → digits.length % 2 = 0 →
      ∃ bytes, exec (.txtHex text) s = .next (s.after (.ok (.bytes bytes))) ∧ 2 * bytes.length = digits.length ∧
        ∀ k, k < bytes.length → ∃ h l hv lv, digits[2 * k]? = some h ∧ digits[2 * k + 1]? = some l ∧
          DigitValue h hv ∧ DigitValue l lv ∧ bytes[k]? = some (BitVec.ofNat 8 (16 * hv + lv))) ∧
    (((∃ c ∈ digits, ∀ v, ¬ DigitValue c v) ∨ digits.length % 2 = 1) →
      exec (.txtHex text) s = .next (s.after (.err .textRefused)))

/-- 44_text_loader.md R90, R92 (decision D20): TXT.ESC delivers for every ASCII text the bytes it reads as by the escapes of
the spec, the only such bytes, and refuses any other text. -/
def Obligations.TxtEscReadsByTheEscapes : Prop :=
  ∀ (text : List Nat) (s : State),
    ((∀ c ∈ text, c ≤ 0x7F) →
      ∃ bytes, exec (.txtEsc text) s = .next (s.after (.ok (.bytes bytes))) ∧ EscReads text bytes ∧
        ∀ bytes', EscReads text bytes' → bytes' = bytes) ∧
    ((∃ c ∈ text, 0x7F < c) → exec (.txtEsc text) s = .next (s.after (.err .textRefused)))

/-- 44_text_loader.md R92 (decision D20): whatever an ASCII text reads as, TXT.ESC delivers it; and every byte sequence, written
as `\xHH` escapes with ordinary characters before it, is read back. -/
def Obligations.EscapedTextHasOneReading : Prop :=
  (∀ (text : List Nat) (bytes : List Byte) (s : State), EscReads text bytes → (∀ c ∈ text, c ≤ 0x7F) →
    exec (.txtEsc text) s = .next (s.after (.ok (.bytes bytes)))) ∧
  (∀ (plain : List Nat) (bytes : List Byte) (s : State), (∀ c ∈ plain, c ≤ 0x7F ∧ c ≠ 92) →
    exec (.txtEsc (plain ++ bytes.flatMap hexEscaped)) s = .next
      (s.after (.ok (.bytes (plain.map (BitVec.ofNat 8) ++ bytes)))))

/-- 44_text_loader.md R93: offline analysis is the text loader's operation, then RSM.SPLIT of its bytes, then DEC.RUN of every
candidate in the direction picked for it, an outcome for each, or the loader's error. -/
def Obligations.OfflineAnalysisIsItsOperations : Prop :=
  ∀ (fmt : TxtFmt) (pick : Nat → List Byte → Dir) (text : List Nat) (s : State),
    (∃ c, exec (textInstr fmt text) s = .next (s.after (.err c)) ∧ offlineAnalysis fmt pick text = .error c) ∨
    (∃ bytes events outcomes,
      exec (textInstr fmt text) s = .next (s.after (.ok (.bytes bytes))) ∧
      exec (.rsmSplit bytes) s = .next (({ s with buf := [] }).after (.ok (.events events))) ∧
      offlineAnalysis fmt pick text = .ok outcomes ∧
      (∀ f, f ∈ candidates events ↔ .frame f ∈ events ∨ .fragment f ∈ events) ∧
      outcomes.length = (candidates events).length ∧
      ∀ k f, (candidates events)[k]? = some f →
        (∃ r, outcomes[k]? = some (.ok r) ∧
          ∀ t, exec (.decRun (pick k f) f) t = .next (t.after (.ok (.record r)))) ∨
        (∃ c, outcomes[k]? = some (.error c) ∧
          ∀ t, exec (.decRun (pick k f) f) t = .next (t.after (.err c))))

/-! ## The whole machine -/

/-- 10_state.md R11, R12, R13: the accumulator is written by CHK.CLR, CHK.UPD and RESET only, the buffer by RSM operations and
RESET only. -/
def Obligations.WritersOfTheStateElements : Prop :=
  ∀ (i : Instr) (s t : State), exec i s = .next t →
    (t.acc ≠ s.acc → i = .reset ∨ i = .chkClr ∨ ∃ b, i = .chkUpd b) ∧
    (t.buf ≠ s.buf → i = .reset ∨ isRsm i = true)

/-- 60_exceptions.md R100: every operation other than a reserved code returns exactly one outcome and leaves the host's queue
alone; a reserved code returns none. -/
def Obligations.EveryOperationReturnsOneOutcome : Prop :=
  ∀ (i : Instr) (s : State),
    (isReserved i = false → ∃ t r, exec i s = .next t ∧ t.results = s.results ++ [r] ∧ t.pending = s.pending) ∧
    (isReserved i = true → ∃ why, exec i s = .refused why)

/-- 60_exceptions.md R101, R105 (decisions D12, D21): an operation that ends in an error changes nothing but the list of
outcomes, and each error is raised by the operations the spec names, wire kinds counted with the encoder (log 4). -/
def Obligations.ErrorsWriteNothing : Prop :=
  ∀ (i : Instr) (s t : State) (c : ErrCode), exec i s = .next t → t.results = s.results ++ [.err c] →
    t = s.after (.err c) ∧
    (c.code ≤ 5 → ∃ dir inp, i = .decRun dir inp) ∧
    (c = .payloadTooLong → (∃ rw reg data, i = .encReq rw reg data) ∨ (∃ reg status data, i = .encRsp reg status data) ∨
      (∃ reg data, i = .read reg data) ∨ (∃ reg data, i = .write reg data) ∨
      (∃ reg status data, i = .rsp reg status data)) ∧
    (c = .textRefused → (∃ text, i = .txtHex text) ∨ ∃ text, i = .txtEsc text)

/-- 10_state.md R10, R12: the outcome of an ENC, DEC, wire or TXT operation depends on its operands alone, and the operation
writes no state. -/
def Obligations.StatelessOperationsSeeNoState : Prop :=
  ∀ i : Instr, isStateless i = true → ∃ r : Result, ∀ s : State, exec i s = .next (s.after r)

/-- 20_memory.md R26: operations of CHK and of RSM, in either order, give the same state elements and the same outcomes. -/
def Obligations.UnitsDoNotDisturbEachOther : Prop :=
  ∀ (i j : Instr) (s : State), isChk i = true → isRsm j = true →
    ∃ ri rj t u v w,
      exec i s = .next t ∧ t.results = s.results ++ [ri] ∧ exec j t = .next u ∧ u.results = t.results ++ [rj] ∧
      exec j s = .next v ∧ v.results = s.results ++ [rj] ∧ exec i v = .next w ∧ w.results = v.results ++ [ri] ∧
      u.acc = w.acc ∧ u.buf = w.buf

/-- 60_exceptions.md R107, 20_memory.md R26: an issued operation that decodes and is not a reserved code never stops the
machine. How operations are issued is the model's (log 1, log 2). -/
def Obligations.IssuedOperationsAlwaysComplete : Prop :=
  ∀ (s : State) (is : List Instr), s.pending = [] →
    (∀ i ∈ is, wellFormed i = true ∧ isReserved i = false) →
    ∃ t, runSteps is.length (s.issue is) = .next t ∧ t.pending = [] ∧ t.results.length = s.results.length + is.length

/-- 60_exceptions.md R101 (decision D12): the numeric codes of the outcomes. -/
def Obligations.OutcomeCodes : Prop :=
  (∀ v, (Result.ok v).code = 0) ∧
  [ErrCode.tooShort, .badStart, .badEnd, .lengthMismatch, .checksumMismatch, .payloadTooLong, .textRefused].map
    ErrCode.code = [1, 2, 3, 4, 5, 6, 7]
end

