-- ==== Sys2Proof/Laws/State.lean ====
section
/-! SUPPORT. One lemma per field per update of the state. -/

namespace Sys2Proof.Machine

@[simp] theorem State.setAcc_acc (s : State) (v : Word) : (s.setAcc v).acc = v := rfl
@[simp] theorem State.setAcc_buf (s : State) (v : Word) : (s.setAcc v).buf = s.buf := rfl
@[simp] theorem State.setAcc_pending (s : State) (v : Word) : (s.setAcc v).pending = s.pending := rfl
@[simp] theorem State.setAcc_results (s : State) (v : Word) : (s.setAcc v).results = s.results := rfl

@[simp] theorem State.setBuf_acc (s : State) (b : List Byte) : (s.setBuf b).acc = s.acc := rfl
@[simp] theorem State.setBuf_buf (s : State) (b : List Byte) : (s.setBuf b).buf = b := rfl
@[simp] theorem State.setBuf_pending (s : State) (b : List Byte) : (s.setBuf b).pending = s.pending := rfl
@[simp] theorem State.setBuf_results (s : State) (b : List Byte) : (s.setBuf b).results = s.results := rfl

@[simp] theorem State.deliver_acc (s : State) (r : Result) : (s.deliver r).acc = s.acc := rfl
@[simp] theorem State.deliver_buf (s : State) (r : Result) : (s.deliver r).buf = s.buf := rfl
@[simp] theorem State.deliver_pending (s : State) (r : Result) : (s.deliver r).pending = s.pending := rfl
@[simp] theorem State.deliver_results (s : State) (r : Result) : (s.deliver r).results = s.results ++ [r] := rfl

@[simp] theorem State.issueNext_acc (s : State) (p : Packet) : (s.issueNext p).acc = s.acc := rfl
@[simp] theorem State.issueNext_buf (s : State) (p : Packet) : (s.issueNext p).buf = s.buf := rfl
@[simp] theorem State.issueNext_pending (s : State) (p : Packet) : (s.issueNext p).pending = p :: s.pending := rfl
@[simp] theorem State.issueNext_results (s : State) (p : Packet) : (s.issueNext p).results = s.results := rfl

@[simp] theorem State.reset_acc : State.reset.acc = 0 := rfl
@[simp] theorem State.reset_buf : State.reset.buf = [] := rfl
@[simp] theorem State.reset_pending : State.reset.pending = [] := rfl
@[simp] theorem State.reset_results : State.reset.results = [] := rfl

end Sys2Proof.Machine
end

