-- ==== Sys2Proof/Laws/Ops.lean ====
section
/-! SUPPORT. For each shared operation, one lemma that says everything it can do. -/

namespace Sys2Proof.Machine

/-! ## Outcomes -/

/-- `return v` has exactly one effect: the outcome is delivered. -/
theorem ret_next_iff (v : Value) (s t : State) : ret v s = .next t ↔ t = s.deliver (.ok v) := by
  simp [ret, eq_comm]

/-- `raise E` has exactly one effect: the outcome is delivered (60_exceptions.md R105). -/
theorem raiseErr_next_iff (e : ErrCode) (s t : State) : raiseErr e s = .next t ↔ t = s.deliver (.err e) := by
  simp [raiseErr, eq_comm]

/-- The outcome that `finish` delivers. -/
theorem finish_next (f : α → Value) (r : Except ErrCode α) (s : State) :
    (∃ a, r = .ok a ∧ finish f r s = .next (s.deliver (.ok (f a)))) ∨
      (∃ e, r = .error e ∧ finish f r s = .next (s.deliver (.err e))) := by
  cases r with
  | ok a => exact .inl ⟨a, rfl, rfl⟩
  | error e => exact .inr ⟨e, rfl, rfl⟩

/-- A refused command code has no next state. -/
theorem refuseCommand_ne_next (code : BitVec 4) (t : State) : refuseCommand code ≠ .next t := by
  simp [refuseCommand]

/-! ## The step -/

/-- What a step can do: wait, execute the oldest operation issued, or refuse a packet that presents none. -/
theorem step_cases (s : State) :
    (s.pending = [] ∧ step s = .next s) ∨
      (∃ p rest i, s.pending = p :: rest ∧ decode p = .ok i ∧ step s = exec i { s with pending := rest }) ∨
      (∃ p rest why, s.pending = p :: rest ∧ decode p = .error why ∧ step s = .refused (.undecodable why)) := by
  cases h : s.pending with
  | nil => exact .inl ⟨rfl, by simp [step, State.take, h]⟩
  | cons p rest =>
    cases hd : decode p with
    | ok i => exact .inr (.inl ⟨p, rest, i, rfl, hd, by simp [step, State.take, h, hd]⟩)
    | error why => exact .inr (.inr ⟨p, rest, why, rfl, hd, by simp [step, State.take, h, hd]⟩)

@[simp] theorem runSteps_zero (s : State) : runSteps 0 s = .next s := rfl

/-- A run goes on from the state its first step gives. -/
theorem runSteps_succ (n : Nat) (s t : State) (h : step s = .next t) : runSteps (n + 1) s = runSteps n t := by
  simp [runSteps, h]

/-- A run of this machine is the host's run of it. -/
theorem runSteps_eq_run (n : Nat) (s : State) : runSteps n s = Host.Core.run Sys2Proof.core n s := by
  induction n generalizing s with
  | zero => rfl
  | succ n ih =>
    cases h : step s with
    | next t => rw [runSteps_succ n s t h, ih]; simp [Host.Core.run, Sys2Proof.core, h]
    | fault r => simp [runSteps, Host.Core.run, Sys2Proof.core, h]
    | refused r => simp [runSteps, Host.Core.run, Sys2Proof.core, h]

/-! ## ENC -/

/-- ENC's one test, and the frame. -/
theorem encodeFrame_cases (b1 b2 : Byte) (data : List Byte) :
    (data.length ≤ 255 ∧ encodeFrame b1 b2 data = .ok (frame b1 b2 data)) ∨
      (255 < data.length ∧ encodeFrame b1 b2 data = .error .payloadTooLong) := by
  by_cases h : data.length ≤ 255
  · exact .inl ⟨h, by simp [encodeFrame, Config.lenMax, Nat.not_lt.mpr h]⟩
  · exact .inr ⟨by omega, by simp [encodeFrame, Config.lenMax, Nat.lt_of_not_le h]⟩

/-! ## DEC -/

/-- The scan for START finds the first one, or there is none. -/
theorem findStart_cases (inp : List Byte) :
    (findStart inp = none ∧ Config.startMarker ∉ inp) ∨
      (∃ i, findStart inp = some i ∧ i < inp.length ∧ FirstStart inp i) := by
  cases h : findStart inp with
  | none =>
    refine .inl ⟨rfl, fun hm => ?_⟩
    have := List.findIdx?_eq_none_iff.mp h _ hm
    simp at this
  | some i =>
    obtain ⟨hi, hp, hb⟩ := List.findIdx?_eq_some_iff_getElem.mp h
    refine .inr ⟨i, rfl, hi, ?_, fun j hj hjs => ?_⟩
    · rw [List.getElem?_eq_getElem hi]; simpa using hp
    · have := hb j hj
      rw [List.getElem?_eq_getElem (by omega)] at hjs
      simp_all

/-- What tests 4 to 7 of DEC.RUN can answer (42_frame_decoder.md R71). -/
theorem decodeDeclared_cases (dir : Dir) (inp : List Byte) (s len : Nat) :
    (inp.length - s < 7 + len ∧ decodeDeclared dir inp s len = .error .lengthMismatch) ∨
      (7 + len ≤ inp.length - s ∧ memRead1 inp (s + 6 + len) ≠ 0x77 ∧
        decodeDeclared dir inp s len = .error .badEnd) ∨
      (7 + len ≤ inp.length - s ∧ memRead1 inp (s + 6 + len) = 0x77 ∧
        coveredChecksum inp s len ≠ memRead2 inp (s + 4 + len) ∧
        decodeDeclared dir inp s len = .error .checksumMismatch) ∨
      (7 + len ≤ inp.length - s ∧ memRead1 inp (s + 6 + len) = 0x77 ∧
        coveredChecksum inp s len = memRead2 inp (s + 4 + len) ∧
        decodeDeclared dir inp s len = .ok (recordAt dir inp s len)) := by
  unfold decodeDeclared
  split
  · exact .inl ⟨by simp_all [Config.overhead], rfl⟩
  · have hfit : 7 + len ≤ inp.length - s := by simp_all [Config.overhead]
    split
    · exact .inr (.inl ⟨hfit, by assumption, rfl⟩)
    · split
      · exact .inr (.inr (.inl ⟨hfit, by simp_all [Config.endMarker], by assumption, rfl⟩))
      · exact .inr (.inr (.inr ⟨hfit, by simp_all [Config.endMarker], by simp_all, rfl⟩))

/-- What DEC.RUN can answer before its fourth test (42_frame_decoder.md R71). -/
theorem decodeFrame_cases (dir : Dir) (inp : List Byte) :
    (inp.length < 7 ∧ decodeFrame dir inp = .error .tooShort) ∨
      (7 ≤ inp.length ∧ Config.startMarker ∉ inp ∧ decodeFrame dir inp = .error .badStart) ∨
      (∃ i, 7 ≤ inp.length ∧ i < inp.length ∧ FirstStart inp i ∧ inp.length - i < 7 ∧
        decodeFrame dir inp = .error .tooShort) ∨
      (∃ i, 7 ≤ inp.length ∧ i < inp.length ∧ FirstStart inp i ∧ 7 ≤ inp.length - i ∧
        decodeFrame dir inp = decodeDeclared dir inp i (declaredLen inp i)) := by
  unfold decodeFrame
  split
  · exact .inl ⟨by simp_all [Config.frameMin], rfl⟩
  · have hn : 7 ≤ inp.length := by simp_all [Config.frameMin]
    rcases findStart_cases inp with ⟨hf, hm⟩ | ⟨i, hf, hi, hs⟩
    · exact .inr (.inl ⟨hn, hm, by simp [hf]⟩)
    · by_cases hr : inp.length - i < 7
      · exact .inr (.inr (.inl ⟨i, hn, hi, hs, hr, by simp [hf, decodeFrom, hr, Config.frameMin]⟩))
      · exact .inr (.inr (.inr ⟨i, hn, hi, hs, by omega,
          by simp [hf, decodeFrom, hr, Config.frameMin, declaredLen, memRead1, Config.lenOffset]⟩))

/-! ## RSM -/

/-- What the byte step can do (43_reassembler.md R81). -/
theorem push1_cases (buf : List Byte) (b : Byte) :
    (buf = [] ∧ b = Config.startMarker ∧ push1 buf b = ([b], [])) ∨
      (buf = [] ∧ b ≠ Config.startMarker ∧ push1 buf b = ([], [.skip b])) ∨
      (buf ≠ [] ∧ bufComplete (buf ++ [b]) = true ∧ push1 buf b = ([], [.frame (buf ++ [b])])) ∨
      (buf ≠ [] ∧ bufComplete (buf ++ [b]) = false ∧ push1 buf b = (buf ++ [b], [])) := by
  cases buf with
  | nil =>
    by_cases h : b = Config.startMarker
    · exact .inl ⟨rfl, h, by rw [push1, huntByte, if_pos h, h]⟩
    · exact .inr (.inl ⟨rfl, h, by simp only [push1, huntByte, if_neg h]⟩)
  | cons x xs =>
    cases h : bufComplete ((x :: xs) ++ [b]) with
    | true => exact .inr (.inr (.inl ⟨by simp, rfl, by rw [push1, collectByte, h]; rfl⟩))
    | false => exact .inr (.inr (.inr ⟨by simp, rfl, by rw [push1, collectByte, h]; rfl⟩))

/-- A buffer is complete when it holds `7 + LEN` bytes (43_reassembler.md R81). -/
theorem bufComplete_iff (buf : List Byte) :
    bufComplete buf = true ↔ 4 ≤ buf.length ∧ buf.length = 7 + (memRead1 buf 3).toNat := by
  simp [bufComplete, Config.overhead, Config.lenOffset]

@[simp] theorem pushAll_nil (buf : List Byte) : pushAll buf [] = (buf, []) := rfl

theorem pushAll_cons (buf : List Byte) (b : Byte) (rest : List Byte) :
    pushAll buf (b :: rest) =
      ((pushAll (push1 buf b).1 rest).1, (push1 buf b).2 ++ (pushAll (push1 buf b).1 rest).2) := rfl

/-- The events of a flush: the remainder, if there is one. -/
theorem flushEvents_eq (buf : List Byte) : flushEvents buf = if buf = [] then [] else [.fragment buf] := by
  cases buf <;> simp [flushEvents]

/-! ## TXT -/

/-- A character is a hexadecimal digit of some value, or `val` has none for it. -/
theorem hexVal_eq_some_iff (c v : Nat) : hexVal c = some v ↔ DigitValue c v := by
  unfold hexVal DigitValue
  split
  · simp; omega
  · split
    · simp; omega
    · split
      · simp; omega
      · simp; omega

/-- Two characters give a byte exactly where both are digits. -/
theorem hexPair_eq_some_iff (h l : Nat) (b : Byte) :
    hexPair h l = some b ↔ ∃ hv lv, DigitValue h hv ∧ DigitValue l lv ∧ b = BitVec.ofNat 8 (16 * hv + lv) := by
  unfold hexPair
  simp only [← hexVal_eq_some_iff]
  cases hexVal h <;> cases hexVal l <;> simp [nibblesByte, eq_comm]

/-- A letter escape is one of the table. -/
theorem letterEscape_eq_some_iff (e : Nat) (b : Byte) : letterEscape e = some b ↔ (e, b) ∈ letterEscapes := by
  simp only [letterEscape, letterEscapes, List.mem_cons, Prod.mk.injEq, List.not_mem_nil, or_false]
  by_cases h0 : e = 48
  · subst h0; simp; exact eq_comm
  by_cases h1 : e = 110
  · subst h1; simp; exact eq_comm
  by_cases h2 : e = 114
  · subst h2; simp; exact eq_comm
  by_cases h3 : e = 116
  · subst h3; simp; exact eq_comm
  by_cases h4 : e = 92
  · subst h4; simp; exact eq_comm
  simp [h0, h1, h2, h3, h4]

/-- The characters a turn has taken are skipped. -/
theorem escScan_skip (taken : Nat) (text : List Nat) : escScan taken text = escScan 0 (text.drop taken) := by
  induction text generalizing taken with
  | nil => cases taken <;> simp [escScan]
  | cons c rest ih =>
    cases taken with
    | zero => rfl
    | succ taken => simpa [escScan] using ih taken

/-- One turn of the scan. -/
theorem escScan_cons (c : Nat) (rest : List Nat) :
    escScan 0 (c :: rest) = (escOne c rest).1 :: escScan 0 (rest.drop (escOne c rest).2) := by
  rw [escScan, escScan_skip]

/-- A hexadecimal escape is read where there is one. -/
theorem hexEscape_eq_some_iff (text : List Nat) (b : Byte) :
    hexEscape text = some b ↔
      ∃ h l hv lv rest, text = 120 :: h :: l :: rest ∧ DigitValue h hv ∧ DigitValue l lv ∧
        b = BitVec.ofNat 8 (16 * hv + lv) := by
  constructor
  · intro hb
    unfold hexEscape at hb
    split at hb
    · split at hb
      · rename_i hx
        obtain ⟨hv, lv, dh, dl, e⟩ := (hexPair_eq_some_iff _ _ _).1 hb
        exact ⟨_, _, hv, lv, _, by rw [hx], dh, dl, e⟩
      · cases hb
    · cases hb
  · rintro ⟨h, l, hv, lv, rest, rfl, dh, dl, e⟩
    simpa [hexEscape] using (hexPair_eq_some_iff _ _ _).2 ⟨hv, lv, dh, dl, e⟩

/-- A letter escape is read where there is one. -/
theorem shortEscape_eq_some_iff (text : List Nat) (b : Byte) :
    shortEscape text = some b ↔ ∃ e rest, text = e :: rest ∧ (e, b) ∈ letterEscapes := by
  cases text with
  | nil => simp [shortEscape]
  | cons e rest =>
    rw [shortEscape, letterEscape_eq_some_iff]
    exact ⟨fun h => ⟨e, rest, rfl, h⟩, fun ⟨_, _, he, h⟩ => by cases he; exact h⟩

/-! ## The offline pipeline -/

/-- What the pipeline is given to decode: the frames and the fragments of the events. -/
theorem mem_candidates_iff (events : List Event) (f : List Byte) :
    f ∈ candidates events ↔ .frame f ∈ events ∨ .fragment f ∈ events := by
  induction events with
  | nil => simp [candidates]
  | cons e rest ih =>
    unfold candidates at ih ⊢
    cases e <;> simp [ih, or_assoc, or_left_comm]

/-- The outcome of each candidate is DEC.RUN's, in the direction picked for it. -/
theorem getElem?_decodeEach (pick : Nat → List Byte → Dir) (cs : List (List Byte)) (k n : Nat) :
    (decodeEach pick k cs)[n]? = cs[n]?.map fun f => decodeFrame (pick (k + n) f) f := by
  induction cs generalizing k n with
  | nil => simp [decodeEach]
  | cons f rest ih =>
    cases n with
    | zero => simp [decodeEach]
    | succ n => simp [decodeEach, ih, Nat.add_assoc, Nat.add_comm 1 n]

@[simp] theorem length_decodeEach (pick : Nat → List Byte → Dir) (cs : List (List Byte)) (k : Nat) :
    (decodeEach pick k cs).length = cs.length := by
  induction cs generalizing k with
  | nil => rfl
  | cons f rest ih => simp [decodeEach, ih]

/-- The pipeline ends in the loader's error, or in the outcomes of the loader's bytes. -/
theorem offlineAnalysis_cases (fmt : TxtFmt) (pick : Nat → List Byte → Dir) (text : List Nat) :
    (∃ e, loadText fmt text = .error e ∧ offlineAnalysis fmt pick text = .error e) ∨
      (∃ bytes, loadText fmt text = .ok bytes ∧ offlineAnalysis fmt pick text = .ok (offlineOutcomes pick bytes)) := by
  unfold offlineAnalysis
  cases h : loadText fmt text with
  | error e => exact .inl ⟨e, rfl, rfl⟩
  | ok bytes => exact .inr ⟨bytes, rfl, rfl⟩

end Sys2Proof.Machine
end

