-- ==== Sys2Proof/Laws/Exec.lean ====
section
/-! SUPPORT. What each arm of `exec` is, over the shared operations: the one place where a meaning is unfolded. -/

namespace Sys2Proof.Machine

theorem exec_reset (s : State) : exec .reset s = ret .unit ((s.setAcc 0).setBuf []) := rfl
theorem exec_chkClr (s : State) : exec .chkClr s = ret .unit (s.setAcc 0) := rfl
theorem exec_chkUpd (b : Byte) (s : State) : exec (.chkUpd b) s = ret .unit (s.setAcc (chkFold s.acc b)) := rfl
theorem exec_chkGet (s : State) : exec .chkGet s = ret (.word s.acc) s := rfl

theorem exec_encReq (rw : Rw) (reg : Byte) (data : List Byte) (s : State) :
    exec (.encReq rw reg data) s = finish .bytes (encodeFrame (rwByte rw) reg data) s := rfl
theorem exec_encRsp (reg status : Byte) (data : List Byte) (s : State) :
    exec (.encRsp reg status data) s = finish .bytes (encodeFrame reg status data) s := rfl
theorem exec_decRun (dir : Dir) (inp : List Byte) (s : State) :
    exec (.decRun dir inp) s = finish .record (decodeFrame dir inp) s := rfl

theorem exec_reserved7 (s : State) : exec .reserved7 s = refuseCommand 0x7 := rfl
theorem exec_reservedCF (low : BitVec 2) (s : State) :
    exec (.reservedCF low) s = refuseCommand (0xC ||| low.setWidth 4) := rfl

theorem exec_rsmPush (chunk : List Byte) (s : State) :
    exec (.rsmPush chunk) s = ret (.events (pushAll s.buf chunk).2) (s.setBuf (pushAll s.buf chunk).1) := rfl
theorem exec_rsmFlush (s : State) : exec .rsmFlush s = ret (.events (flushEvents s.buf)) (s.setBuf []) := rfl
theorem exec_rsmClr (s : State) : exec .rsmClr s = ret .unit (s.setBuf []) := rfl
theorem exec_rsmSplit (bytes : List Byte) (s : State) :
    exec (.rsmSplit bytes) s = ret (.events (splitEvents bytes)) (s.setBuf []) := rfl

theorem exec_read (reg : Byte) (data : List Byte) (s : State) :
    exec (.read reg data) s = finish .bytes (encodeFrame Config.opRead reg data) s := rfl
theorem exec_write (reg : Byte) (data : List Byte) (s : State) :
    exec (.write reg data) s = finish .bytes (encodeFrame Config.opWrite reg data) s := rfl
theorem exec_rsp (reg status : Byte) (data : List Byte) (s : State) :
    exec (.rsp reg status data) s = finish .bytes (encodeFrame reg status data) s := rfl
theorem exec_hwinfo (s : State) : exec .hwinfo s = finish .bytes (encodeFrame Config.opRead 0x03 []) s := rfl
theorem exec_cellinfo (s : State) : exec .cellinfo s = finish .bytes (encodeFrame Config.opRead 0x04 []) s := rfl
theorem exec_hwver (s : State) : exec .hwver s = finish .bytes (encodeFrame Config.opRead 0x05 []) s := rfl
theorem exec_mosfet (m : BitVec 2) (s : State) :
    exec (.mosfet m) s = finish .bytes (encodeFrame Config.opWrite 0xE1 (mosfetPayload m)) s := rfl
theorem exec_eepromOpen (s : State) :
    exec .eepromOpen s = finish .bytes (encodeFrame Config.opWrite 0x00 [0x56, 0x78]) s := rfl
theorem exec_eepromClose (s : State) :
    exec .eepromClose s = finish .bytes (encodeFrame Config.opWrite 0x01 [0x00, 0x00]) s := rfl

theorem exec_txtHex (text : List Nat) (s : State) : exec (.txtHex text) s = finish .bytes (txtHex text) s := rfl
theorem exec_txtEsc (text : List Nat) (s : State) : exec (.txtEsc text) s = finish .bytes (txtEsc text) s := rfl

end Sys2Proof.Machine
end

