-- ==== Sys2Proof/Laws/PerInstr.lean ====
section
/-! SUPPORT. One family of lemmas per instruction: the packet that encodes an instruction has, in the bits that
spec/opcode_table.json fixes for its row, the values the table gives. -/

namespace Sys2Proof.Laws.TableRow

/-- The bits `hi:lo` of the word that selects a row, where the table fixes them. -/
structure Fixed where
  hi : Nat
  lo : Nat
  value : Nat

/-- The "fixed" entry of an instruction's row in spec/opcode_table.json; the HOST rows have none. -/
def fixedOf : Instr → Option Fixed
  | .reset => some ⟨3, 0, 0⟩
  | .chkClr => some ⟨3, 0, 1⟩
  | .chkUpd _ => some ⟨3, 0, 2⟩
  | .chkGet => some ⟨3, 0, 3⟩
  | .encReq _ _ _ => some ⟨3, 0, 4⟩
  | .encRsp _ _ _ => some ⟨3, 0, 5⟩
  | .decRun _ _ => some ⟨3, 0, 6⟩
  | .reserved7 => some ⟨3, 0, 7⟩
  | .rsmPush _ => some ⟨3, 0, 8⟩
  | .rsmFlush => some ⟨3, 0, 9⟩
  | .rsmClr => some ⟨3, 0, 10⟩
  | .rsmSplit _ => some ⟨3, 0, 11⟩
  | .reservedCF _ => some ⟨3, 2, 3⟩
  | .read _ _ => some ⟨31, 16, 56741⟩
  | .write _ _ => some ⟨31, 16, 56666⟩
  | .rsp _ _ _ => some ⟨31, 24, 221⟩
  | .hwinfo => some ⟨31, 0, 3718578944⟩
  | .cellinfo => some ⟨31, 0, 3718579200⟩
  | .hwver => some ⟨31, 0, 3718579456⟩
  | .mosfet _ => some ⟨31, 0, 3713720578⟩
  | .eepromOpen => some ⟨31, 0, 3713662978⟩
  | .eepromClose => some ⟨31, 0, 3713663234⟩
  | .txtHex _ => none
  | .txtEsc _ => none

/-- The word the table's bits are numbered in: the selector byte of a command, the head word H of a frame
(30_encoding.md R39, R41). -/
def selectingWord : Packet → Option Nat
  | .cmd (sel :: _) => some sel.toNat
  | .wire _ (start :: b1 :: b2 :: len :: _) =>
    some (start.toNat * 16777216 + b1.toNat * 65536 + b2.toNat * 256 + len.toNat)
  | _ => none

/-- The encoding has the row's fixed bits; a row without bits is encoded without a selecting word. -/
def Statement (i : Instr) : Prop :=
  match fixedOf i, selectingWord (encode i) with
  | some f, some w => w % 2 ^ (f.hi + 1) / 2 ^ f.lo = f.value
  | none, none => True
  | _, _ => False

theorem reset : Statement .reset := rfl

theorem chkClr : Statement .chkClr := rfl

theorem chkUpd (b : Byte) : Statement (.chkUpd b) := rfl

theorem chkGet : Statement .chkGet := rfl

theorem encReq (rw : Rw) (reg : Byte) (data : List Byte) : Statement (.encReq rw reg data) := by cases rw <;> rfl

theorem encRsp (reg status : Byte) (data : List Byte) : Statement (.encRsp reg status data) := rfl

theorem decRun (dir : Dir) (inp : List Byte) : Statement (.decRun dir inp) := by cases dir <;> rfl

theorem reserved7 : Statement .reserved7 := rfl

theorem rsmPush (chunk : List Byte) : Statement (.rsmPush chunk) := rfl

theorem rsmFlush : Statement .rsmFlush := rfl

theorem rsmClr : Statement .rsmClr := rfl

theorem rsmSplit (bytes : List Byte) : Statement (.rsmSplit bytes) := rfl

theorem reservedCF (low : BitVec 2) : Statement (.reservedCF low) := by
  have h : ∀ l : BitVec 2, ((0x0C : Byte) ||| l.setWidth 8).toNat % 2 ^ 4 / 2 ^ 2 = 3 := by decide
  exact h low

theorem read (reg : Byte) (data : List Byte) : Statement (.read reg data) := by
  simp only [Statement, fixedOf, selectingWord, encode, Machine.frame, Machine.frameHead, List.cons_append,
    List.nil_append]
  bv_omega

theorem write (reg : Byte) (data : List Byte) : Statement (.write reg data) := by
  simp only [Statement, fixedOf, selectingWord, encode, Machine.frame, Machine.frameHead, List.cons_append,
    List.nil_append]
  bv_omega

theorem rsp (reg status : Byte) (data : List Byte) : Statement (.rsp reg status data) := by
  simp only [Statement, fixedOf, selectingWord, encode, Machine.frame, Machine.frameHead, List.cons_append,
    List.nil_append]
  bv_omega

theorem hwinfo : Statement .hwinfo := rfl

theorem cellinfo : Statement .cellinfo := rfl

theorem hwver : Statement .hwver := rfl

theorem mosfet (m : BitVec 2) : Statement (.mosfet m) := by
  simp only [Statement, fixedOf, selectingWord, encode, Machine.frame, Machine.frameHead, Machine.mosfetPayload,
    List.cons_append, List.nil_append, List.length_cons, List.length_nil]
  decide

theorem eepromOpen : Statement .eepromOpen := rfl

theorem eepromClose : Statement .eepromClose := rfl

theorem txtHex (text : List Nat) : Statement (.txtHex text) := trivial

theorem txtEsc (text : List Nat) : Statement (.txtEsc text) := trivial

end Sys2Proof.Laws.TableRow
end

