-- ==== Sys2Proof/Tests/Slice0.lean ====
section
/-! SUPPORT. The model's own tests. Expected values are those of spec/95_test_vectors.md (their ids stand in the names'
comments), of the tables of spec/30_encoding.md, or reckoned by hand from the rules. Then the witnesses: for each statement of
Certificates/Slice0/Obligations.lean that has hypotheses, concrete states and operands that meet them all. -/

namespace Sys2Proof.Tests

open Sys2Proof Sys2Proof.Machine

set_option maxRecDepth 20000

/-! ## Helpers -/

/-- A state with the given elements, nothing issued, no outcome yet. -/
def at_ (acc : Word) (buf : List Byte) : State := { acc := acc, buf := buf, pending := [], results := [] }

/-- The state an outcome of a step gives, if it gives one. -/
def next? : Host.Outcome State Fault Refusal → Option State
  | .next t => some t
  | .fault _ => none
  | .refused _ => none

/-- One step on a state in which one operation is issued: the two elements and the outcomes after it. -/
def run1 (i : Instr) (s : State) : Option (Word × List Byte × List Result) :=
  (next? (step (s.issue [i]))).map fun t => (t.acc, t.buf, t.results)

/-- What the decoder reads, if it reads an instruction. -/
def read? (p : Packet) : Option Instr := (decode p).toOption

/-- The frame of HWINFO (30_encoding.md R40). -/
def hwinfoFrame : List Byte := [0xDD, 0xA5, 0x03, 0x00, 0xFF, 0xFD, 0x77]

/-- The frame of MOSFET 0, DOC0's Example 2 (30_encoding.md R40). -/
def mosfetFrame : List Byte := [0xDD, 0x5A, 0xE1, 0x02, 0x00, 0x00, 0xFF, 0x1D, 0x77]

/-! ## WellFormed: each check refuses an ill-formed term -/

theorem test_wf_read_payload_fits : wellFormed (.read 0x10 (List.replicate 256 0x00)) = false := by decide
theorem test_wf_write_payload_fits : wellFormed (.write 0x10 (List.replicate 256 0x00)) = false := by decide
theorem test_wf_rsp_payload_fits : wellFormed (.rsp 0x03 0x00 (List.replicate 256 0x00)) = false := by decide
theorem test_wf_read_aliases : [0x03, 0x04, 0x05].map (fun r => wellFormed (.read r [])) = [false, false, false] := by decide
theorem test_wf_write_mosfet_aliases :
    [0, 1, 2, 3].map (fun m => wellFormed (.write 0xE1 [0x00, m])) = [false, false, false, false] := by decide
theorem test_wf_write_eeprom_open_alias : wellFormed (.write 0x00 [0x56, 0x78]) = false := by decide
theorem test_wf_write_eeprom_close_alias : wellFormed (.write 0x01 [0x00, 0x00]) = false := by decide

/-! ## Decoding: words written out from 30_encoding.md R40, R41 and the vectors of ENC -/

theorem test_decode_reset : read? (.cmd [0x00]) = some .reset := by decide
theorem test_decode_chkClr : read? (.cmd [0x01]) = some .chkClr := by decide
theorem test_decode_chkUpd : read? (.cmd [0x02, 0xE1]) = some (.chkUpd 0xE1) := by decide
theorem test_decode_chkGet : read? (.cmd [0x03]) = some .chkGet := by decide
theorem test_decode_encReq_read : read? (.cmd [0x04, 0x03]) = some (.encReq .read 0x03 []) := by decide
theorem test_decode_encReq_write :
    read? (.cmd [0x14, 0xE1, 0x00, 0x01]) = some (.encReq .write 0xE1 [0x00, 0x01]) := by decide
theorem test_decode_encRsp : read? (.cmd [0x05, 0x03, 0x80, 0x09]) = some (.encRsp 0x03 0x80 [0x09]) := by decide
theorem test_decode_decRun_request : read? (.cmd [0x06, 0xDD]) = some (.decRun .request [0xDD]) := by decide
theorem test_decode_decRun_response : read? (.cmd [0x16, 0xDD]) = some (.decRun .response [0xDD]) := by decide
theorem test_decode_reserved7 : read? (.cmd [0x07]) = some .reserved7 := by decide
theorem test_decode_rsmPush : read? (.cmd [0x08, 0xDD, 0xA5]) = some (.rsmPush [0xDD, 0xA5]) := by decide
theorem test_decode_rsmFlush : read? (.cmd [0x09]) = some .rsmFlush := by decide
theorem test_decode_rsmClr : read? (.cmd [0x0A]) = some .rsmClr := by decide
theorem test_decode_rsmSplit : read? (.cmd [0x0B, 0x55]) = some (.rsmSplit [0x55]) := by decide
theorem test_decode_reservedCF :
    [0x0C, 0x0D, 0x0E, 0x0F].map (fun b => read? (.cmd [b])) = [0, 1, 2, 3].map (fun l => some (.reservedCF l)) := by decide
/-- VE12. -/
theorem test_decode_read :
    read? (.wire .request [0xDD, 0xA5, 0x10, 0x00, 0xFF, 0xF0, 0x77]) = some (.read 0x10 []) := by decide
/-- VE16: a read of 0x03 with a payload is READ, not HWINFO. -/
theorem test_decode_read_payload :
    read? (.wire .request [0xDD, 0xA5, 0x03, 0x01, 0x01, 0xFF, 0xFB, 0x77]) = some (.read 0x03 [0x01]) := by decide
/-- VE14. -/
theorem test_decode_write :
    read? (.wire .request [0xDD, 0x5A, 0x10, 0x02, 0x27, 0x10, 0xFF, 0xB7, 0x77]) = some (.write 0x10 [0x27, 0x10]) := by
  decide
/-- VE20. -/
theorem test_decode_rsp :
    read? (.wire .response [0xDD, 0x03, 0x00, 0x04, 0x09, 0xC4, 0xFF, 0x38, 0xFD, 0xF8, 0x77]) =
      some (.rsp 0x03 0x00 [0x09, 0xC4, 0xFF, 0x38]) := by decide
theorem test_decode_hwinfo : read? (.wire .request hwinfoFrame) = some .hwinfo := by decide
/-- 30_encoding.md R44 (c): the same bytes as a response are an ordinary response. -/
theorem test_decode_hwinfo_bytes_as_response : read? (.wire .response hwinfoFrame) = some (.rsp 0xA5 0x03 []) := by decide
theorem test_decode_cellinfo :
    read? (.wire .request [0xDD, 0xA5, 0x04, 0x00, 0xFF, 0xFC, 0x77]) = some .cellinfo := by decide
theorem test_decode_hwver :
    read? (.wire .request [0xDD, 0xA5, 0x05, 0x00, 0xFF, 0xFB, 0x77]) = some .hwver := by decide
theorem test_decode_mosfet :
    [(0x00, 0x1D), (0x01, 0x1C), (0x02, 0x1B), (0x03, 0x1A)].map (fun (m, c) =>
      read? (.wire .request [0xDD, 0x5A, 0xE1, 0x02, 0x00, m, 0xFF, c, 0x77])) =
    [0, 1, 2, 3].map (fun m => some (.mosfet m)) := by decide
theorem test_decode_eepromOpen :
    read? (.wire .request [0xDD, 0x5A, 0x00, 0x02, 0x56, 0x78, 0xFF, 0x30, 0x77]) = some .eepromOpen := by decide
theorem test_decode_eepromClose :
    read? (.wire .request [0xDD, 0x5A, 0x01, 0x02, 0x00, 0x00, 0xFF, 0xFD, 0x77]) = some .eepromClose := by decide
theorem test_decode_texts :
    (read? (.text .hex [0x44, 0x44]), read? (.text .esc [0x44, 0x44])) =
      (some (.txtHex [0x44, 0x44]), some (.txtEsc [0x44, 0x44])) := by decide
/-- A reserved opcode in a request, a wrong checksum, a wrong length, no START, a missing argument, one too many. -/
theorem test_decode_rejects :
    [Packet.wire .request [0xDD, 0x12, 0x03, 0x00, 0xFF, 0xFD, 0x77], .wire .request [0xDD, 0xA5, 0x03, 0x00, 0xFF, 0xFC, 0x77],
      .wire .request [0xDD, 0xA5, 0x03, 0x01, 0xFF, 0xFD, 0x77], .wire .request [0xDE, 0xA5, 0x03, 0x00, 0xFF, 0xFD, 0x77],
      .cmd [0x02], .cmd [0x03, 0x00]].map read? = [none, none, none, none, none, none] := by decide

/-! ## The words of the opcode table -/

theorem test_table_cmd_rows :
    [0, 1, 2, 3, 4, 5, 6, 7, 8, 9, 10, 11, 12].map (decodeTableWord 8) =
      [some .reset, some .chkClr, some (.chkUpd 0), some .chkGet, some (.encReq .read 0 []), some (.encRsp 0 0 []),
        some (.decRun .request []), some .reserved7, some (.rsmPush []), some .rsmFlush, some .rsmClr, some (.rsmSplit []),
        some (.reservedCF 0)] := by decide
theorem test_table_wire_rows :
    [0xDDA50000, 0xDD5A0000, 0xDD000000, 0xDDA50300, 0xDDA50400, 0xDDA50500, 0xDD5AE102, 0xDD5A0002, 0xDD5A0102].map
        (decodeTableWord 32) =
      [some (.read 0 []), some (.write 0 []), some (.rsp 0 0 []), some .hwinfo, some .cellinfo, some .hwver,
        some (.mosfet 0), some .eepromOpen, some .eepromClose] := by decide
/-- The step after withFetchWord runs the instruction of the word, first after reset. -/
theorem test_withFetchWord_cmd :
    (next? (step (State.reset.withFetchWord 8 3))).map State.results = some [.ok (.word 0x0000)] := by decide
theorem test_withFetchWord_wire :
    (next? (step (State.reset.withFetchWord 32 0xDDA50300))).map State.results = some [.ok (.bytes hwinfoFrame)] := by decide

/-! ## One step of each instruction -/

theorem test_reset : run1 .reset (at_ 0xFF1D [0xDD, 0x5A]) = some (0x0000, [], [.ok .unit]) := by decide
theorem test_chkClr : run1 .chkClr (at_ 0xFF1D [0xDD]) = some (0x0000, [0xDD], [.ok .unit]) := by decide
/-- VC5. -/
theorem test_chkUpd_wraps : run1 (.chkUpd 0xFF) (at_ 0x0000 [0xDD]) = some (0xFF01, [0xDD], [.ok .unit]) := by decide
/-- VC10. -/
theorem test_chkUpd_accumulates : run1 (.chkUpd 0x03) (at_ 0xFFFD []) = some (0xFFFA, [], [.ok .unit]) := by decide
/-- VC9. -/
theorem test_chkGet : run1 .chkGet (at_ 0xFF1D [0xDD]) = some (0xFF1D, [0xDD], [.ok (.word 0xFF1D)]) := by decide
/-- VE4. -/
theorem test_encReq : run1 (.encReq .write 0xE1 [0x00, 0x00]) (at_ 0x1234 []) =
    some (0x1234, [], [.ok (.bytes mosfetFrame)]) := by decide
/-- VE19. -/
theorem test_encReq_too_long : run1 (.encReq .write 0x10 (List.replicate 256 0x00)) (at_ 0x1234 [0xDD]) =
    some (0x1234, [0xDD], [.err .payloadTooLong]) := by decide
/-- VE21. -/
theorem test_encRsp : run1 (.encRsp 0x03 0x80 []) (at_ 0 []) =
    some (0, [], [.ok (.bytes [0xDD, 0x03, 0x80, 0x00, 0xFF, 0x80, 0x77])]) := by decide
/-- The worked example of 42_frame_decoder.md R71. -/
theorem test_decRun :
    run1 (.decRun .response [0x77, 0x00, 0xDD, 0x03, 0x00, 0x04, 0x09, 0xC4, 0xFF, 0x38, 0xFD, 0xF8, 0x77]) (at_ 0x1234 []) =
    some (0x1234, [], [.ok (.record ⟨.response, 2, 0x03, 0x00, 4, [0x09, 0xC4, 0xFF, 0x38], 0xFDF8, true⟩)]) := by decide
/-- A wrong END and a wrong checksum: BAD_END (60_exceptions.md R104). -/
theorem test_decRun_priority : run1 (.decRun .request [0xDD, 0xA5, 0x03, 0x00, 0xFF, 0xFC, 0x78]) (at_ 0 []) =
    some (0, [], [.err .badEnd]) := by decide
theorem test_reserved7_refused : run1 .reserved7 (at_ 0 []) = none := by decide
theorem test_reservedCF_refused : run1 (.reservedCF 3) (at_ 0 []) = none := by decide
/-- DOC0's Example 4, the frames split over the chunk boundary. -/
theorem test_rsmPush : run1 (.rsmPush ([0x03, 0x00, 0xFF, 0xFD, 0x77] ++ mosfetFrame)) (at_ 0x1234 [0xDD, 0xA5]) =
    some (0x1234, [], [.ok (.events [.frame hwinfoFrame, .frame mosfetFrame])]) := by decide
/-- The example of 43_reassembler.md R84. -/
theorem test_rsmPush_false_start : run1 (.rsmPush [0x55, 0xDD, 0x00, 0x00, 0xDD, 0xA5, 0x03, 0x00, 0xFF, 0xFD, 0x77]) (at_ 0 []) =
    some (0, [0xDD, 0x00, 0x00, 0xDD, 0xA5, 0x03, 0x00, 0xFF, 0xFD, 0x77], [.ok (.events [.skip 0x55])]) := by decide
theorem test_rsmFlush : run1 .rsmFlush (at_ 0x1234 [0xDD, 0x5A, 0xE1]) =
    some (0x1234, [], [.ok (.events [.fragment [0xDD, 0x5A, 0xE1]])]) := by decide
theorem test_rsmFlush_hunting : run1 .rsmFlush (at_ 0 []) = some (0, [], [.ok (.events [])]) := by decide
theorem test_rsmClr : run1 .rsmClr (at_ 0x1234 [0xDD, 0x5A, 0xE1]) = some (0x1234, [], [.ok .unit]) := by decide
/-- The worked example of 43_reassembler.md R87, with a stale buffer. -/
theorem test_rsmSplit : run1 (.rsmSplit (hwinfoFrame ++ [0xDD, 0x5A, 0xE1, 0x02, 0x00])) (at_ 0x1234 [0xDD, 0x01]) =
    some (0x1234, [], [.ok (.events [.frame hwinfoFrame, .fragment [0xDD, 0x5A, 0xE1, 0x02, 0x00]])]) := by decide
/-- VE12. -/
theorem test_read : run1 (.read 0x10 []) (at_ 0 []) =
    some (0, [], [.ok (.bytes [0xDD, 0xA5, 0x10, 0x00, 0xFF, 0xF0, 0x77])]) := by decide
/-- VE15: marker values in the payload are not escaped. -/
theorem test_write : run1 (.write 0x20 [0xDD, 0x77]) (at_ 0 []) =
    some (0, [], [.ok (.bytes [0xDD, 0x5A, 0x20, 0x02, 0xDD, 0x77, 0xFE, 0x8A, 0x77])]) := by decide
/-- VE22: the checksum does not cover b1. -/
theorem test_rsp : run1 (.rsp 0xE1 0x00 []) (at_ 0 []) =
    some (0, [], [.ok (.bytes [0xDD, 0xE1, 0x00, 0x00, 0x00, 0x00, 0x77])]) := by decide
theorem test_pseudo_reads : [Instr.hwinfo, .cellinfo, .hwver].map (fun i => run1 i (at_ 0 [])) =
    [(0x03, 0xFD), (0x04, 0xFC), (0x05, 0xFB)].map
      (fun (r, c) => some (0, [], [.ok (.bytes [0xDD, 0xA5, r, 0x00, 0xFF, c, 0x77])])) := by decide
theorem test_mosfet : run1 (.mosfet 3) (at_ 0 []) =
    some (0, [], [.ok (.bytes [0xDD, 0x5A, 0xE1, 0x02, 0x00, 0x03, 0xFF, 0x1A, 0x77])]) := by decide
theorem test_eepromOpen : run1 .eepromOpen (at_ 0 []) =
    some (0, [], [.ok (.bytes [0xDD, 0x5A, 0x00, 0x02, 0x56, 0x78, 0xFF, 0x30, 0x77])]) := by decide
theorem test_eepromClose : run1 .eepromClose (at_ 0 []) =
    some (0, [], [.ok (.bytes [0xDD, 0x5A, 0x01, 0x02, 0x00, 0x00, 0xFF, 0xFD, 0x77])]) := by decide
/-- 44_text_loader.md R91: "DD:a5, 03". -/
theorem test_txtHex : run1 (.txtHex [0x44, 0x44, 0x3A, 0x61, 0x35, 0x2C, 0x20, 0x30, 0x33]) (at_ 0 []) =
    some (0, [], [.ok (.bytes [0xDD, 0xA5, 0x03])]) := by decide
/-- An odd number of digits. -/
theorem test_txtHex_odd : run1 (.txtHex [0x44, 0x44, 0x41]) (at_ 0 [0xDD]) = some (0, [0xDD], [.err .textRefused]) := by decide
/-- 44_text_loader.md R92: an escape, then one that is incomplete: "w\x77\x4". -/
theorem test_txtEsc : run1 (.txtEsc [0x77, 0x5C, 0x78, 0x37, 0x37, 0x5C, 0x78, 0x34]) (at_ 0 []) =
    some (0, [], [.ok (.bytes [0x77, 0x77, 0x5C, 0x78, 0x34])]) := by decide
/-- A doubled backslash is one escape: "\\n" is a backslash and an n. -/
theorem test_txtEsc_doubled : run1 (.txtEsc [0x5C, 0x5C, 0x6E]) (at_ 0 []) =
    some (0, [], [.ok (.bytes [0x5C, 0x6E])]) := by decide

/-! ## The offline pipeline -/

/-- Program P3: "DD A5 03 00 FF FD 77 55 DD:03:80:00:FF:80:77,DD5AE10200", the second candidate a response, the others
requests. -/
theorem test_offline_P3 :
    offlineAnalysis .hex (fun k _ => if k = 1 then .response else .request)
      ("DD A5 03 00 FF FD 77 55 DD:03:80:00:FF:80:77,DD5AE10200".toList.map Char.toNat) =
    .ok [.ok ⟨.request, 0, 0xA5, 0x03, 0, [], 0xFFFD, true⟩, .ok ⟨.response, 0, 0x03, 0x80, 0, [], 0xFF80, true⟩,
      .error .tooShort] := by decide
/-- The encoding named decides: the text "DD" is one byte in hexadecimal, two characters that are noise as escapes; and a text
that the loader refuses has no outcomes. -/
theorem test_offline_formats :
    offlineAnalysis .hex (fun _ _ => .request) [0x44, 0x44] = .ok [.error .tooShort] ∧
      offlineAnalysis .esc (fun _ _ => .request) [0x44, 0x44] = .ok [] ∧
      offlineAnalysis .hex (fun _ _ => .request) [0x44] = .error .textRefused := by decide

/-! ## The checksum at its bounds -/

/-- VC24: 257 bytes of 0xFF, the largest sum within a frame. -/
theorem test_chk16_257 : chk16 (List.replicate 257 0xFF) = 0x0001 := by decide
/-- VC23. -/
theorem test_chk16_258 : chk16 (List.replicate 258 0xFF) = 0xFF02 := by decide
/-- The closed form and the encoder's frame agree on DOC0's Example 2. -/
theorem test_frameBytes : frameBytes 0x5A 0xE1 [0x00, 0x00] = mosfetFrame := by decide

/-! ## Witnesses -/

theorem witness_decodeOfEncode :
    wellFormed (.read 0x03 (List.replicate 255 0xDD)) = true ∧ wellFormed (.write 0xE1 [0x00, 0x04]) = true ∧
      wellFormed (.rsp 0xA5 0x03 (List.replicate 255 0x77)) = true ∧ wellFormed (.encReq .read 0 (List.replicate 256 0)) = true := by
  decide

theorem witness_decodeAnswersWellFormed :
    decode (.wire .response [0xDD, 0x00, 0xFF, 0x00, 0xFF, 0x01, 0x77]) = .ok (.rsp 0x00 0xFF []) := by decide

/-- A reading in each direction, a request that has none, and the payload at both its bounds. -/
theorem witness_wholeFrames :
    decode (.wire .response (frame 0x12 0x03 [])) = .ok (.rsp 0x12 0x03 []) ∧
      decode (.wire .request (frame 0xA5 0x03 [])) = .ok .hwinfo ∧
      decode (.wire .request (frame 0x12 0x03 [])) = .error .requestOpcodeReserved ∧
      (List.replicate 255 (0x00 : Byte)).length ≤ 255 ∧
      read? (.wire .request (frame 0x5A 0x47 (List.replicate 255 0x00))) = some (.write 0x47 (List.replicate 255 0x00)) := by
  decide

/-- A state with an operation issued, one with a packet that is none, one with nothing. -/
theorem witness_step :
    (State.reset.issue [.chkGet]).pending = .cmd [0x03] :: [] ∧ decode (.cmd [0x03]) = .ok .chkGet ∧
      (State.reset.issueNext (.cmd [])).pending = .cmd [] :: [] ∧ decode (.cmd []) = .error .argumentMissing ∧
      State.reset.pending = [] := by decide

theorem witness_checksumRun : (at_ 0x1234 [0xDD]).pending = [] := rfl

theorem witness_ignoresOrder : ([0x12, 0x34, 0x56] : List Byte).Perm [0x56, 0x12, 0x34] := by decide

/-- Compensation by one, and by the most two bytes allow. -/
theorem witness_blindSpots :
    (0x01 : Byte).toNat + (0x01 : Byte).toNat = (0x02 : Byte).toNat + (0x00 : Byte).toNat ∧
      (0xFF : Byte).toNat + (0x00 : Byte).toNat = (0x00 : Byte).toNat + (0xFF : Byte).toNat := by decide

/-- 257 bytes, all zero and all 0xFF. -/
theorem witness_withinAFrame :
    (List.replicate 257 (0x00 : Byte)).length ≤ 257 ∧ (∀ b ∈ List.replicate 257 (0x00 : Byte), b = 0x00) ∧
      (List.replicate 257 (0xFF : Byte)).length ≤ 257 ∧ (∃ b ∈ List.replicate 257 (0xFF : Byte), b ≠ 0x00) := by decide

/-- Payloads on both sides of the bound of ENC.REQ, ENC.RSP and the wire kinds. -/
theorem witness_payloadBound :
    (List.replicate 255 (0xDD : Byte)).length ≤ 255 ∧ 255 < (List.replicate 256 (0xDD : Byte)).length := by decide

/-- Both bounds of the payload, and an offset in it. -/
theorem witness_frameHasItsLayout :
    ([] : List Byte).length ≤ 255 ∧ (List.replicate 255 (0xFF : Byte)).length ≤ 255 ∧
      254 < (List.replicate 255 (0xFF : Byte)).length := by decide

/-- Equal frames, of the longest payload. -/
theorem witness_frameIsInjective :
    (List.replicate 255 (0xFF : Byte)).length ≤ 255 ∧
      frame 0x5A 0xFF (List.replicate 255 0xFF) = frame 0x5A 0xFF (List.replicate 255 0xFF) := by decide

/-- No noise and some; no payload, and the longest. -/
theorem witness_framesDecode :
    ([] : List Byte).length ≤ 255 ∧ (0xDD : Byte) ∉ ([] : List Byte) ∧ (0xDD : Byte) ∉ ([0x00, 0xFF, 0x77] : List Byte) ∧
      (List.replicate 255 (0xDD : Byte)).length ≤ 255 := by decide

theorem witness_recordsComeFromFrames :
    exec (.decRun .request ([0x00, 0xFF] ++ hwinfoFrame ++ [0xAA])) (at_ 0 []) =
      .next ((at_ 0 []).after (.ok (.record ⟨.request, 2, 0xA5, 0x03, 0, [], 0xFFFD, true⟩))) := rfl

/-- Each outcome of DEC.RUN occurs, at the bounds of its condition. -/
theorem witness_decOutcomes :
    decodeFrame .request [0xDD, 0xA5, 0x03, 0x00, 0xFF, 0xFD] = .error .tooShort ∧
      decodeFrame .request [0x00, 0xDD, 0xA5, 0x03, 0x00, 0xFF, 0xFD] = .error .tooShort ∧
      decodeFrame .request [0x00, 0x00, 0x00, 0x00, 0x00, 0x00, 0x00] = .error .badStart ∧
      decodeFrame .request [0xDD, 0xA5, 0x03, 0x01, 0xFF, 0xFD, 0x77] = .error .lengthMismatch ∧
      decodeFrame .request [0xDD, 0xA5, 0x03, 0x00, 0xFF, 0xFD, 0x78] = .error .badEnd ∧
      decodeFrame .request [0xDD, 0xA5, 0x03, 0x00, 0xFF, 0xFC, 0x77] = .error .checksumMismatch ∧
      decodeFrame .request hwinfoFrame = .ok ⟨.request, 0, 0xA5, 0x03, 0, [], 0xFFFD, true⟩ := by decide

/-- Both halves of the statement on the direction occur. -/
theorem witness_direction :
    decodeFrame .response hwinfoFrame = .ok ⟨.response, 0, 0xA5, 0x03, 0, [], 0xFFFD, true⟩ ∧
      decodeFrame .response [] = .error .tooShort := by decide

/-- b2, the first payload byte, and the last of 255. -/
theorem witness_singleByteChange :
    (frame 0x5A 0xE1 [0x00, 0x01])[2]? ≠ some 0xE2 ∧ (frame 0x5A 0xE1 [0x00, 0x01])[4]? ≠ some 0xFF ∧
      258 < 4 + (List.replicate 255 (0x00 : Byte)).length ∧
      (frame 0x5A 0x47 (List.replicate 255 0x00))[258]? ≠ some 0x01 := by decide

theorem witness_uncheckedChanges :
    ([0x27, 0x10] : List Byte).length ≤ 255 ∧ ([0x27, 0x10] : List Byte).Perm [0x10, 0x27] := by decide

/-- The shortest and the longest candidate. -/
theorem witness_candidateShapes :
    (Event.frame hwinfoFrame).Shape ∧ (Event.frame (frame 0x5A 0xFF (List.replicate 255 0xFF))).Shape :=
  ⟨⟨by decide, by decide, by decide, by decide⟩, ⟨by decide, by decide, by decide, by decide⟩⟩

/-- Fragments of 6 bytes, of 7, and of 261, the most. -/
theorem witness_fragmentShapes :
    (Event.fragment [0xDD, 0xA5, 0x03, 0x00, 0xFF, 0xFD]).Shape ∧
      (Event.fragment [0xDD, 0xA5, 0x03, 0x01, 0xFF, 0xFD, 0x77]).Shape ∧
      (Event.fragment ([0xDD, 0x5A, 0xFF, 0xFF] ++ List.replicate 257 0x00)).Shape :=
  ⟨⟨by decide, ⟨by decide, by decide, by decide⟩⟩, ⟨by decide, ⟨by decide, by decide, by decide⟩⟩,
    ⟨by decide, ⟨by decide, by decide, by decide⟩⟩⟩

/-- The four cases of a byte, with the buffer short of its LEN byte and with the byte that is the LEN byte. -/
theorem witness_pushOfOneByte :
    (at_ 0 []).buf = [] ∧ (0x55 : Byte) ≠ 0xDD ∧
      ((at_ 0 [0xDD, 0xA5, 0x03, 0x00, 0xFF, 0xFD]).buf ≠ [] ∧
        4 ≤ (at_ 0 [0xDD, 0xA5, 0x03, 0x00, 0xFF, 0xFD]).buf.length + 1 ∧
        (at_ 0 [0xDD, 0xA5, 0x03, 0x00, 0xFF, 0xFD]).buf.length + 1 =
          7 + (((at_ 0 [0xDD, 0xA5, 0x03, 0x00, 0xFF, 0xFD]).buf ++ [0x77]).getD 3 0).toNat) ∧
      ((at_ 0 [0xDD, 0xA5]).buf ≠ [] ∧ (at_ 0 [0xDD, 0xA5]).buf.length + 1 < 4) ∧
      ((at_ 0 [0xDD, 0xA5, 0x03]).buf ≠ [] ∧ (at_ 0 [0xDD, 0xA5, 0x03]).buf.length + 1 ≠
        7 + (((at_ 0 [0xDD, 0xA5, 0x03]).buf ++ [0x00]).getD 3 0).toNat) := by decide

/-- The invariant holds while hunting, with LEN unknown, and one byte short of the longest frame. -/
theorem witness_inv :
    (at_ 0 []).Inv ∧ (at_ 0xFFFF [0xDD, 0xA5, 0x03]).Inv ∧
      (at_ 0 ([0xDD, 0x5A, 0xFF, 0xFF] ++ List.replicate 257 0x00)).Inv :=
  ⟨⟨by decide, by decide, by decide⟩, ⟨by decide, by decide, by decide⟩, ⟨by decide, by decide, by decide⟩⟩

/-- The derived items in the two cases of LEN, at the last byte before it and at the byte itself; the states meet the invariant. -/
theorem witness_collecting :
    ((at_ 0 [0xDD, 0xA5, 0x03]).Inv ∧ (at_ 0 [0xDD, 0xA5, 0x03]).lenKnown = false) ∧
      ((at_ 0 [0xDD, 0x5A, 0xE1, 0x02]).Inv ∧ (at_ 0 [0xDD, 0x5A, 0xE1, 0x02]).lenKnown = true) :=
  ⟨⟨⟨by decide, by decide, by decide⟩, by decide⟩, ⟨⟨by decide, by decide, by decide⟩, by decide⟩⟩
/-- `need` of a buffer whose LEN byte is 2 is 9, not the capacity. -/
theorem test_need : (at_ 0 [0xDD, 0x5A, 0xE1, 0x02]).need = some 9 := by decide

/-- A step from a state that meets the invariant. -/
theorem witness_everyStep :
    ((at_ 0 [0xDD, 0xA5, 0x03, 0x00, 0xFF, 0xFD]).issue [.rsmPush [0x77, 0xDD]]).Inv ∧
      step ((at_ 0 [0xDD, 0xA5, 0x03, 0x00, 0xFF, 0xFD]).issue [.rsmPush [0x77, 0xDD]]) =
        .next ((at_ 0 [0xDD]).after (.ok (.events [.frame hwinfoFrame]))) :=
  ⟨⟨by decide, by decide, by decide⟩, rfl⟩

/-- Two frames, with noise before and between and after, and one with a payload byte 0xDD. -/
theorem witness_cleanStream :
    (at_ 0x1234 []).buf = [] ∧
      (∀ it ∈ ([([0x55], 0xA5, 0x03, []), ([], 0x5A, 0x20, [0xDD, 0x77])] : List (List Byte × Byte × Byte × List Byte)),
        (0xDD : Byte) ∉ it.1 ∧ it.2.2.2.length ≤ 255) ∧ (0xDD : Byte) ∉ ([0x00, 0x77] : List Byte) := by decide

/-- Digits only, evenly many; a character that is none (the 8-bit code 0x80, and the letter g); a digit too many. -/
theorem witness_txtHex :
    ([0x44, 0x20, 0x61] : List Nat).filter (fun c => c ∉ [32, 58, 44]) = [0x44, 0x61] ∧
      ((∃ v, DigitValue 0x44 v) ∧ ∃ v, DigitValue 0x61 v) ∧ (∀ v, ¬ DigitValue 0x80 v) ∧ (∀ v, ¬ DigitValue 0x67 v) ∧
      ([0x44] : List Nat).length % 2 = 1 := by
  refine ⟨by decide, ⟨⟨13, by unfold DigitValue; decide⟩, ⟨10, by unfold DigitValue; decide⟩⟩, ?_, ?_, by decide⟩ <;>
    (intro v h; unfold DigitValue at h; omega)

/-- ASCII up to 0x7F; a code above it. -/
theorem witness_txtEsc :
    (∀ c ∈ ([0x5C, 0x6E, 0x7F] : List Nat), c ≤ 0x7F) ∧ (∃ c ∈ ([0x41, 0x80] : List Nat), 0x7F < c) := by decide

/-- A text with an escape of each kind: "\x4A\n\q". -/
theorem witness_escReads : EscReads [92, 120, 52, 65, 92, 110, 92, 113] [0x4A, 0x0A, 0x5C, 0x71] :=
  .hex 52 65 4 10 _ _ (by unfold DigitValue; decide) (by unfold DigitValue; decide)
    (.letter 110 0x0A _ _ (by decide)
      (.backslash _ _ (by rintro ⟨h, l, hv, lv, rest, e, _⟩; simp at e)
        (by rintro ⟨e, b, rest, he, hm⟩; simp at he; rw [← he.1] at hm; simp [letterEscapes] at hm)
        (.literal 113 _ _ (by decide) .done)))

/-- The text of that witness is ASCII; so is an ordinary text without a backslash, which may be empty. -/
theorem witness_escapedText :
    (∀ c ∈ ([92, 120, 52, 65, 92, 110, 92, 113] : List Nat), c ≤ 0x7F) ∧
      (∀ c ∈ ([0x00, 0x41, 0x7F] : List Nat), c ≤ 0x7F ∧ c ≠ 92) ∧ (∀ c ∈ ([] : List Nat), c ≤ 0x7F ∧ c ≠ 92) := by decide

/-- A candidate to decode, and a choice of its direction. -/
theorem witness_offline : (candidates [.skip 0x55, .frame hwinfoFrame, .fragment [0xDD]])[1]? = some [0xDD] := by decide

/-- An operation that writes the accumulator, and one that writes the buffer. -/
theorem witness_writers :
    exec (.chkUpd 0x01) (at_ 0 []) = .next ((at_ 0xFFFF []).after (.ok .unit)) ∧ (at_ 0xFFFF []).acc ≠ (at_ 0 []).acc ∧
      exec (.rsmPush [0xDD]) (at_ 0 []) = .next ((at_ 0 [0xDD]).after (.ok (.events []))) ∧
      (at_ 0 [0xDD]).buf ≠ (at_ 0 []).buf :=
  ⟨rfl, by decide, rfl, by decide⟩

theorem witness_oneOutcome : isReserved .hwinfo = false ∧ isReserved .reserved7 = true := by decide

/-- An error of each of the three kinds of operation that can fail. -/
theorem witness_errors :
    exec (.decRun .request []) (at_ 1 [0xDD]) = .next ((at_ 1 [0xDD]).after (.err .tooShort)) ∧
      next? (exec (.read 0x00 (List.replicate 256 0x00)) (at_ 1 [])) = some ((at_ 1 []).after (.err .payloadTooLong)) ∧
      exec (.txtEsc [0x80]) (at_ 1 []) = .next ((at_ 1 []).after (.err .textRefused)) :=
  ⟨rfl, by decide, rfl⟩

theorem witness_stateless :
    [Instr.encReq .read 0 [], .encRsp 0 0 [], .decRun .request [], .read 0 [], .mosfet 0, .txtHex [], .txtEsc []].map isStateless =
      [true, true, true, true, true, true, true] := by decide

theorem witness_units : isChk (.chkUpd 0x01) = true ∧ isRsm (.rsmPush [0xDD]) = true := by decide

theorem witness_issued :
    State.reset.pending = [] ∧ ∀ i ∈ [Instr.chkClr, .encReq .write 0 (List.replicate 256 0), .decRun .request [], .rsmFlush],
      wellFormed i = true ∧ isReserved i = false := by decide

end Sys2Proof.Tests
end

section
/-! PROOFS. The word operations of unit CHK as numbers, the effect of `return v` as one state, and the statements of
40_checksum.md R50 to R52. -/

namespace Sys2Proof.Machine

/-! ## Words as numbers -/

@[simp] theorem toNat_zext16 (b : Byte) : (zext16 b).toNat = b.toNat := by
  rw [zext16, BitVec.toNat_setWidth_of_le (by decide)]

@[simp] theorem toNat_hi8 (v : Word) : (hi8 v).toNat = v.toNat / 256 := by
  have hv : v.toNat < 65536 := v.isLt
  rw [hi8, BitVec.extractLsb'_toNat, Nat.shiftRight_eq_div_pow]
  omega

@[simp] theorem toNat_lo8 (v : Word) : (lo8 v).toNat = v.toNat % 256 := by
  rw [lo8, BitVec.extractLsb'_toNat, Nat.shiftRight_zero]

/-- Folding a byte subtracts it as an unsigned number, modulo 65536: it is never sign-extended (40_checksum.md R51). -/
theorem toNat_chkFold (acc : Word) (b : Byte) : (chkFold acc b).toNat = (acc.toNat + 65536 - b.toNat) % 65536 := by
  have hb : b.toNat < 256 := b.isLt
  rw [chkFold, BitVec.toNat_sub, toNat_zext16]
  omega

theorem chkFold_eq_ofNat (acc : Word) (b : Byte) :
    chkFold acc b = BitVec.ofNat 16 ((acc.toNat + 65536 - b.toNat) % 65536) := by
  apply BitVec.eq_of_toNat_eq
  rw [toNat_chkFold, BitVec.toNat_ofNat, Nat.mod_mod]

/-! ## Command codes and outcomes -/

@[simp] theorem commandCode_cmd (sel : Byte) (rest : List Byte) :
    commandCode (.cmd (sel :: rest)) = some (sel.toNat % 16) := rfl

theorem ret_eq_next_after (v : Value) (s : State) : ret v s = .next (s.after (.ok v)) := rfl

/-- An operation that writes the accumulator and returns nothing leaves the buffer and the queue as they are. -/
theorem ret_unit_setAcc (s : State) (v : Word) :
    ret .unit (s.setAcc v) = .next { s with acc := v, results := s.results ++ [.ok .unit] } := rfl

/-! ## The operations of CHK -/

/-- Settles O9 (40_checksum.md R50): the operation is one write of the accumulator. -/
theorem chkClrClearsTheAccumulator : Obligations.ChkClrClearsTheAccumulator := by
  refine ⟨?code, fun s => ?effect⟩
  case code => rw [encode, commandCode_cmd]; rfl
  case effect => rw [exec_chkClr, ret_unit_setAcc]

/-- Settles O10 (40_checksum.md R51): the write is of the folded accumulator, whose number is the wrapped difference. -/
theorem chkUpdSubtractsTheByte : Obligations.ChkUpdSubtractsTheByte := by
  refine fun b s => ⟨?code, ?effect⟩
  case code => rw [encode, commandCode_cmd]; rfl
  case effect => rw [exec_chkUpd, chkFold_eq_ofNat, ret_unit_setAcc]

/-- Settles O11 (40_checksum.md R52): nothing is written, and the two wire bytes are the halves of the word returned. -/
theorem chkGetReturnsTheAccumulator : Obligations.ChkGetReturnsTheAccumulator := by
  refine ⟨?code, fun s => ⟨?effect, ?high, ?low⟩⟩
  case code => rw [encode, commandCode_cmd]; rfl
  case effect => rw [exec_chkGet, ret_eq_next_after]
  case high => exact toNat_hi8 s.acc
  case low => exact toNat_lo8 s.acc

end Sys2Proof.Machine
end

section
/-! PROOFS. The checksum as a number, the frame against its closed form, the two outcomes of the encoder, and the statement
of 41_frame_encoder.md R61. -/

namespace Sys2Proof.Machine

/-! ## The checksum as a number -/

@[simp] theorem byteSum_nil : byteSum [] = 0 := rfl

@[simp] theorem byteSum_cons (b : Byte) (s : List Byte) : byteSum (b :: s) = b.toNat + byteSum s := by
  simp [byteSum]

/-- Folding a sequence into an accumulator subtracts the sum of its bytes, modulo 65536 (40_checksum.md R53). -/
theorem toNat_foldl_chkFold (s : List Byte) (acc : Word) :
    (s.foldl chkFold acc).toNat = (acc.toNat + (65536 - byteSum s % 65536)) % 65536 := by
  induction s generalizing acc with
  | nil =>
    have hacc : acc.toNat < 65536 := acc.isLt
    rw [List.foldl_nil, byteSum_nil]
    omega
  | cons b s ih =>
    have hb : b.toNat < 256 := b.isLt
    rw [List.foldl_cons, ih, toNat_chkFold, byteSum_cons]
    omega

/-- The recursive checksum has the closed form's number (40_checksum.md R53). -/
theorem toNat_chk16 (s : List Byte) : (chk16 s).toNat = sumChecksum s := by
  have hzero : (0 : Word).toNat = 0 := rfl
  rw [chk16, toNat_foldl_chkFold, hzero, Nat.zero_add, sumChecksum]

/-! ## The bytes of a frame -/

theorem hi8_eq_ofNat (v : Word) : hi8 v = BitVec.ofNat 8 (v.toNat / 256) := by
  rw [← toNat_hi8, BitVec.ofNat_toNat, BitVec.setWidth_eq]

theorem lo8_eq_ofNat (v : Word) : lo8 v = BitVec.ofNat 8 (v.toNat % 256) := by
  rw [← toNat_lo8, BitVec.ofNat_toNat, BitVec.setWidth_eq]

theorem toNat_frameChecksum (b2 : Byte) (data : List Byte) :
    (frameChecksum b2 data).toNat = sumChecksum (b2 :: BitVec.ofNat 8 data.length :: data) :=
  toNat_chk16 _

/-- The encoder's frame carries the closed form's checksum, big-endian (30_encoding.md R35; 41_frame_encoder.md R60). -/
theorem frame_eq_frameBytes (b1 b2 : Byte) (data : List Byte) : frame b1 b2 data = frameBytes b1 b2 data := by
  rw [frame, frameTail, hi8_eq_ofNat, lo8_eq_ofNat, toNat_frameChecksum]
  rfl

/-! ## The outcomes of the encoder -/

theorem raiseErr_eq_next_after (e : ErrCode) (s : State) : raiseErr e s = .next (s.after (.err e)) := rfl

/-- A payload of at most 255 bytes: the frame is returned, and nothing else changes. -/
theorem finish_encodeFrame_of_le {data : List Byte} (h : data.length ≤ 255) (b1 b2 : Byte) (s : State) :
    finish .bytes (encodeFrame b1 b2 data) s = .next (s.after (.ok (.bytes (frameBytes b1 b2 data)))) := by
  obtain ⟨-, hframe⟩ | ⟨hlong, -⟩ := encodeFrame_cases b1 b2 data
  · rw [hframe, finish, frame_eq_frameBytes, ret_eq_next_after]
  · omega

/-- A longer payload: no byte is produced, the error is the outcome, and nothing else changes. -/
theorem finish_encodeFrame_of_gt {data : List Byte} (h : 255 < data.length) (b1 b2 : Byte) (s : State) :
    finish .bytes (encodeFrame b1 b2 data) s = .next (s.after (.err .payloadTooLong)) := by
  obtain ⟨hshort, -⟩ | ⟨-, herror⟩ := encodeFrame_cases b1 b2 data
  · omega
  · rw [herror, finish, raiseErr_eq_next_after]

/-! ## ENC.REQ -/

theorem rwByte_eq_ite (rw : Rw) : rwByte rw = if rw = .read then 0xA5 else 0x5A := by
  cases rw <;> rfl

/-- Settles O19 (41_frame_encoder.md R61): the operation is the encoder's one test with the opcode of `rw`, and the frame it
builds is the closed form's. -/
theorem encReqReturnsTheRequestFrame : Obligations.EncReqReturnsTheRequestFrame := by
  refine fun rw reg data s => ⟨?code, fun hfits => ?frame, fun hlong => ?tooLong⟩
  case code => rw [encode, commandCode_cmd]; cases rw <;> rfl
  case frame => rw [exec_encReq, finish_encodeFrame_of_le hfits, rwByte_eq_ite]
  case tooLong => rw [exec_encReq, finish_encodeFrame_of_gt hlong]

end Sys2Proof.Machine
end

section
/-! PROOFS. What every instruction does, said once: the accumulator, the buffer and the outcome after it, each as a function of
the instruction and of what it reads. -/

namespace Sys2Proof.Machine

/-- The outcome of a computation that touches no state, returned or raised. -/
def outcomeOf {α : Type} (f : α → Value) : Except ErrCode α → Result
  | .ok a => .ok (f a)
  | .error e => .err e

theorem finish_eq_next_after {α : Type} (f : α → Value) (r : Except ErrCode α) (s : State) :
    finish f r s = .next (s.after (outcomeOf f r)) := by
  cases r <;> rfl

@[simp] theorem outcomeOf_ok {α : Type} (f : α → Value) (a : α) : outcomeOf f (.ok a) = .ok (f a) := rfl

@[simp] theorem outcomeOf_error {α : Type} (f : α → Value) (e : ErrCode) : outcomeOf f (.error e) = .err e := rfl

theorem outcomeOf_eq_err_iff {α : Type} (f : α → Value) (r : Except ErrCode α) (c : ErrCode) :
    outcomeOf f r = .err c ↔ r = .error c := by
  cases r <;> simp

/-- The accumulator after an instruction: its writers are RESET, CHK.CLR and CHK.UPD (10_state.md R11). -/
def accAfter (acc : Word) : Instr → Word
  | .reset => 0
  | .chkClr => 0
  | .chkUpd b => chkFold acc b
  | _ => acc

/-- The buffer after an instruction: its writers are RESET and the operations of RSM (10_state.md R13). -/
def bufAfter (buf : List Byte) : Instr → List Byte
  | .reset => []
  | .rsmPush chunk => (pushAll buf chunk).1
  | .rsmFlush => []
  | .rsmClr => []
  | .rsmSplit _ => []
  | _ => buf

/-- The outcome of an instruction that finds the two elements as given (30_encoding.md R41, R45). -/
def resultOf (acc : Word) (buf : List Byte) : Instr → Result
  | .chkGet => .ok (.word acc)
  | .encReq rw reg data => outcomeOf .bytes (encodeFrame (rwByte rw) reg data)
  | .encRsp reg status data => outcomeOf .bytes (encodeFrame reg status data)
  | .decRun dir inp => outcomeOf .record (decodeFrame dir inp)
  | .rsmPush chunk => .ok (.events (pushAll buf chunk).2)
  | .rsmFlush => .ok (.events (flushEvents buf))
  | .rsmSplit bytes => .ok (.events (splitEvents bytes))
  | .read reg data => outcomeOf .bytes (encodeFrame Config.opRead reg data)
  | .write reg data => outcomeOf .bytes (encodeFrame Config.opWrite reg data)
  | .rsp reg status data => outcomeOf .bytes (encodeFrame reg status data)
  | .hwinfo => outcomeOf .bytes (encodeFrame Config.opRead 0x03 [])
  | .cellinfo => outcomeOf .bytes (encodeFrame Config.opRead 0x04 [])
  | .hwver => outcomeOf .bytes (encodeFrame Config.opRead 0x05 [])
  | .mosfet m => outcomeOf .bytes (encodeFrame Config.opWrite 0xE1 (mosfetPayload m))
  | .eepromOpen => outcomeOf .bytes (encodeFrame Config.opWrite 0x00 [0x56, 0x78])
  | .eepromClose => outcomeOf .bytes (encodeFrame Config.opWrite 0x01 [0x00, 0x00])
  | .txtHex text => outcomeOf .bytes (txtHex text)
  | .txtEsc text => outcomeOf .bytes (txtEsc text)
  | _ => .ok .unit

/-- The state after an instruction that has a next state. -/
def State.effect (s : State) (i : Instr) : State where
  acc := accAfter s.acc i
  buf := bufAfter s.buf i
  pending := s.pending
  results := s.results ++ [resultOf s.acc s.buf i]

@[simp] theorem State.effect_acc (s : State) (i : Instr) : (s.effect i).acc = accAfter s.acc i := rfl
@[simp] theorem State.effect_buf (s : State) (i : Instr) : (s.effect i).buf = bufAfter s.buf i := rfl
@[simp] theorem State.effect_pending (s : State) (i : Instr) : (s.effect i).pending = s.pending := rfl
@[simp] theorem State.effect_results (s : State) (i : Instr) :
    (s.effect i).results = s.results ++ [resultOf s.acc s.buf i] := rfl

/-- Every instruction but a reserved code has exactly this effect. -/
theorem exec_eq_next_effect (i : Instr) (s : State) (h : isReserved i = false) : exec i s = .next (s.effect i) := by
  cases i with
  | reset => rfl
  | chkClr => rfl
  | chkUpd b => rfl
  | chkGet => rfl
  | encReq rw reg data => exact finish_eq_next_after ..
  | encRsp reg status data => exact finish_eq_next_after ..
  | decRun dir inp => exact finish_eq_next_after ..
  | reserved7 => cases h
  | rsmPush chunk => rfl
  | rsmFlush => rfl
  | rsmClr => rfl
  | rsmSplit bytes => rfl
  | reservedCF low => cases h
  | read reg data => exact finish_eq_next_after ..
  | write reg data => exact finish_eq_next_after ..
  | rsp reg status data => exact finish_eq_next_after ..
  | hwinfo => exact (exec_hwinfo s).trans (finish_eq_next_after ..)
  | cellinfo => exact (exec_cellinfo s).trans (finish_eq_next_after ..)
  | hwver => exact (exec_hwver s).trans (finish_eq_next_after ..)
  | mosfet m => exact (exec_mosfet m s).trans (finish_eq_next_after ..)
  | eepromOpen => exact (exec_eepromOpen s).trans (finish_eq_next_after ..)
  | eepromClose => exact (exec_eepromClose s).trans (finish_eq_next_after ..)
  | txtHex text => exact finish_eq_next_after ..
  | txtEsc text => exact finish_eq_next_after ..

/-- A reserved command code is refused in every state (30_encoding.md R42). -/
theorem exec_eq_refused (i : Instr) (s : State) (h : isReserved i = true) : ∃ why, exec i s = .refused why := by
  cases i with
  | reserved7 => exact ⟨_, exec_reserved7 s⟩
  | reservedCF low => exact ⟨_, exec_reservedCF low s⟩
  | _ => cases h

/-- An instruction answers a next state only by its effect. -/
theorem exec_eq_next_iff (i : Instr) (s t : State) :
    exec i s = .next t ↔ isReserved i = false ∧ t = s.effect i := by
  cases h : isReserved i with
  | false => simp [exec_eq_next_effect i s h, eq_comm]
  | true =>
    obtain ⟨why, hwhy⟩ := exec_eq_refused i s h
    simp [hwhy]

end Sys2Proof.Machine
end

section
/-! PROOFS. The reassembler: the invariant of its buffer (10_state.md R13), the shapes of its events (43_reassembler.md R80), and
its statements. -/

namespace Sys2Proof.Machine

/-! ## Reading a byte of a sequence -/

theorem memRead1_append_left {s : List Byte} {k : Nat} (h : k < s.length) (t : List Byte) :
    memRead1 (s ++ t) k = memRead1 s k := by
  simp [memRead1, List.getD, List.getElem?_append_left h]

theorem memRead1_append_right (s t : List Byte) (k : Nat) : memRead1 (s ++ t) (s.length + k) = memRead1 t k := by
  simp [memRead1, List.getD, List.getElem?_append_right]

/-! ## The invariant of the buffer -/

theorem RsmInv.nil : RsmInv [] := ⟨by simp, .inl rfl, by simp⟩

theorem RsmInv.start : RsmInv [Config.startMarker] := ⟨by simp, .inr rfl, by simp⟩

/-- A byte after a buffer that begins with START leaves it beginning so. -/
theorem RsmInv.head?_append {buf : List Byte} (hinv : RsmInv buf) (hne : buf ≠ []) (b : Byte) :
    (buf ++ [b]).head? = some Config.startMarker := by
  obtain hnil | hhead := hinv.startsWithStart
  · exact absurd hnil hne
  · simp [List.head?_append, hhead]

/-- With LEN known, a byte more than the buffer holds is at most the frame it declares. -/
theorem RsmInv.length_append_le {buf : List Byte} (hinv : RsmInv buf) (b : Byte) (hlen : 4 ≤ (buf ++ [b]).length) :
    (buf ++ [b]).length ≤ 7 + (memRead1 (buf ++ [b]) 3).toNat := by
  rw [List.length_append, List.length_singleton] at hlen ⊢
  by_cases hknown : 4 ≤ buf.length
  · have hshort := hinv.incomplete hknown
    rw [memRead1_append_left (by omega)]
    omega
  · omega

/-- A byte that completes no frame is kept, and the buffer with it still meets the invariant (43_reassembler.md R88). -/
theorem RsmInv.append {buf : List Byte} (hinv : RsmInv buf) (hne : buf ≠ []) {b : Byte}
    (hopen : bufComplete (buf ++ [b]) = false) : RsmInv (buf ++ [b]) := by
  have hshort : 4 ≤ (buf ++ [b]).length → (buf ++ [b]).length < 7 + (memRead1 (buf ++ [b]) 3).toNat := by
    intro hlen
    have hle := hinv.length_append_le b hlen
    have hneq : ¬ (4 ≤ (buf ++ [b]).length ∧ (buf ++ [b]).length = 7 + (memRead1 (buf ++ [b]) 3).toNat) := by
      rw [← bufComplete_iff, hopen]; exact Bool.false_ne_true
    omega
  refine ⟨?bounded, .inr (hinv.head?_append hne b), hshort⟩
  case bounded =>
    have hbyte := (memRead1 (buf ++ [b]) 3).isLt
    omega

/-- A byte that completes a frame emits a frame of its shape (43_reassembler.md R80). -/
theorem RsmInv.frame_shape {buf : List Byte} (hinv : RsmInv buf) (hne : buf ≠ []) {b : Byte}
    (hfull : bufComplete (buf ++ [b]) = true) : (Event.frame (buf ++ [b])).Shape := by
  obtain ⟨-, hlen⟩ := (bufComplete_iff _).1 hfull
  have hbyte := (memRead1 (buf ++ [b]) 3).isLt
  exact ⟨by omega, by omega, hinv.head?_append hne b, hlen⟩

/-! ## Pushing -/

theorem push1_keeps_inv {buf : List Byte} (hinv : RsmInv buf) (b : Byte) : RsmInv (push1 buf b).1 := by
  obtain ⟨-, hb, heq⟩ | ⟨-, -, heq⟩ | ⟨-, -, heq⟩ | ⟨hne, hopen, heq⟩ := push1_cases buf b <;> rw [heq]
  · rw [hb]; exact .start
  · exact .nil
  · exact .nil
  · exact hinv.append hne hopen

/-- The events of a byte step are frames and skips of their shape, never a fragment. -/
theorem push1_event_shape {buf : List Byte} (hinv : RsmInv buf) (b : Byte) :
    ∀ e ∈ (push1 buf b).2, e.Shape ∧ ∀ f, e ≠ .fragment f := by
  obtain ⟨-, -, heq⟩ | ⟨-, hb, heq⟩ | ⟨hne, hfull, heq⟩ | ⟨-, -, heq⟩ := push1_cases buf b <;> rw [heq]
  · simp
  · simpa [Event.Shape] using hb
  · simpa using hinv.frame_shape hne hfull
  · simp

/-- The bytes a byte step emits, then those it keeps, are those it was given. -/
theorem push1_conserves (buf : List Byte) (b : Byte) : payloads (push1 buf b).2 ++ (push1 buf b).1 = buf ++ [b] := by
  obtain ⟨hnil, -, heq⟩ | ⟨hnil, -, heq⟩ | ⟨-, -, heq⟩ | ⟨-, -, heq⟩ := push1_cases buf b <;>
    rw [heq]
  · simp [payloads, hnil]
  · simp [payloads, Event.payload, hnil]
  · simp [payloads, Event.payload]
  · simp [payloads]

theorem payloads_append (e₁ e₂ : List Event) : payloads (e₁ ++ e₂) = payloads e₁ ++ payloads e₂ :=
  List.flatMap_append

theorem pushAll_keeps_inv {buf : List Byte} (hinv : RsmInv buf) (chunk : List Byte) : RsmInv (pushAll buf chunk).1 := by
  induction chunk generalizing buf with
  | nil => exact hinv
  | cons b rest ih => exact ih (push1_keeps_inv hinv b)

theorem pushAll_event_shape {buf : List Byte} (hinv : RsmInv buf) (chunk : List Byte) :
    ∀ e ∈ (pushAll buf chunk).2, e.Shape ∧ ∀ f, e ≠ .fragment f := by
  induction chunk generalizing buf with
  | nil => simp
  | cons b rest ih =>
    intro e he
    rw [pushAll_cons, List.mem_append] at he
    obtain he | he := he
    · exact push1_event_shape hinv b e he
    · exact ih (push1_keeps_inv hinv b) e he

theorem pushAll_conserves (buf chunk : List Byte) :
    payloads (pushAll buf chunk).2 ++ (pushAll buf chunk).1 = buf ++ chunk := by
  induction chunk generalizing buf with
  | nil => simp [payloads]
  | cons b rest ih =>
    calc payloads (pushAll buf (b :: rest)).2 ++ (pushAll buf (b :: rest)).1
        = payloads (push1 buf b).2 ++
            (payloads (pushAll (push1 buf b).1 rest).2 ++ (pushAll (push1 buf b).1 rest).1) := by
          rw [pushAll_cons, payloads_append, List.append_assoc]
      _ = payloads (push1 buf b).2 ++ (push1 buf b).1 ++ rest := by rw [ih, List.append_assoc]
      _ = buf ++ b :: rest := by rw [push1_conserves, List.append_assoc, List.singleton_append]

/-- Pushing two chunks is pushing the first, then the second from the buffer it leaves (43_reassembler.md R82). -/
theorem pushAll_append (buf c₁ c₂ : List Byte) :
    pushAll buf (c₁ ++ c₂) =
      ((pushAll (pushAll buf c₁).1 c₂).1, (pushAll buf c₁).2 ++ (pushAll (pushAll buf c₁).1 c₂).2) := by
  induction c₁ generalizing buf with
  | nil => rfl
  | cons b rest ih => rw [List.cons_append, pushAll_cons, pushAll_cons, ih, List.append_assoc]

/-! ## Every step keeps the invariant -/

theorem bufAfter_keeps_inv {buf : List Byte} (hinv : RsmInv buf) (i : Instr) : RsmInv (bufAfter buf i) := by
  cases i with
  | rsmPush chunk => exact pushAll_keeps_inv hinv chunk
  | reset => exact .nil
  | rsmFlush => exact .nil
  | rsmClr => exact .nil
  | rsmSplit bytes => exact .nil
  | _ => exact hinv

theorem exec_keeps_inv {i : Instr} {s t : State} (hinv : s.Inv) (hexec : exec i s = .next t) : t.Inv := by
  obtain ⟨-, rfl⟩ := (exec_eq_next_iff i s t).1 hexec
  exact bufAfter_keeps_inv hinv i

/-- Settles O41 (10_state.md R13, 43_reassembler.md R88): a step waits, or it executes one instruction, which writes the buffer
only as `bufAfter` says. -/
theorem everyStepKeepsTheBufferInvariant : Obligations.EveryStepKeepsTheBufferInvariant := by
  intro s t hinv hstep
  obtain ⟨-, hwait⟩ | ⟨p, rest, i, -, -, hexec⟩ | ⟨p, rest, why, -, -, hrefused⟩ := step_cases s
  · rw [hwait] at hstep
    cases hstep
    exact hinv
  · exact exec_keeps_inv (s := { s with pending := rest }) hinv (hexec ▸ hstep)
  · rw [hrefused] at hstep
    cases hstep

/-- Settles O42: the buffer after reset is empty. -/
theorem resetMeetsTheBufferInvariant : Obligations.ResetMeetsTheBufferInvariant := RsmInv.nil

end Sys2Proof.Machine
end

section
/-! PROOFS. The decoder and the encoder of packets (30_encoding.md sections 1, 3 and 4), the step, and runs of issued
operations. -/

namespace Sys2Proof.Machine

/-! ## The names of requests -/

theorem readHasAlias_iff (reg : Byte) (data : List Byte) :
    readHasAlias reg data = true ↔ data = [] ∧ (reg = 0x03 ∨ reg = 0x04 ∨ reg = 0x05) := by
  simp only [readHasAlias, Bool.and_eq_true, Bool.or_eq_true, decide_eq_true_eq, or_assoc]

theorem writeHasAlias_iff (reg : Byte) (data : List Byte) :
    writeHasAlias reg data = true ↔
      (reg = 0xE1 ∧ ∃ m, data = mosfetPayload m) ∨ (reg = 0x00 ∧ data = [0x56, 0x78]) ∨
        (reg = 0x01 ∧ data = [0x00, 0x00]) := by
  have hmosfet : (∃ m, data = mosfetPayload m) ↔
      data = [0x00, 0x00] ∨ data = [0x00, 0x01] ∨ data = [0x00, 0x02] ∨ data = [0x00, 0x03] := by
    constructor
    · rintro ⟨m, rfl⟩
      revert m
      decide
    · rintro (rfl | rfl | rfl | rfl)
      exacts [⟨0, rfl⟩, ⟨1, rfl⟩, ⟨2, rfl⟩, ⟨3, rfl⟩]
  simp only [writeHasAlias, Bool.and_eq_true, Bool.or_eq_true, decide_eq_true_eq, or_assoc, hmosfet]

/-- A read request is a pseudo-instruction, or READ under its most specific name (30_encoding.md R40). -/
theorem nameRead_cases (reg : Byte) (data : List Byte) :
    (reg = 0x03 ∧ data = [] ∧ nameRead reg data = .hwinfo) ∨
      (reg = 0x04 ∧ data = [] ∧ nameRead reg data = .cellinfo) ∨
      (reg = 0x05 ∧ data = [] ∧ nameRead reg data = .hwver) ∨
      (readHasAlias reg data = false ∧ nameRead reg data = .read reg data) := by
  rw [← Bool.not_eq_true, readHasAlias_iff]
  unfold nameRead
  split_ifs with hdata h3 h4 h5
  · exact .inl ⟨h3, hdata, rfl⟩
  · exact .inr (.inl ⟨h4, hdata, rfl⟩)
  · exact .inr (.inr (.inl ⟨h5, hdata, rfl⟩))
  · exact .inr (.inr (.inr ⟨by tauto, rfl⟩))
  · exact .inr (.inr (.inr ⟨by tauto, rfl⟩))

/-- A write request is a pseudo-instruction, or WRITE under its most specific name (30_encoding.md R40). -/
theorem nameWrite_cases (reg : Byte) (data : List Byte) :
    (∃ m, reg = 0xE1 ∧ data = mosfetPayload m ∧ nameWrite reg data = .mosfet m) ∨
      (reg = 0x00 ∧ data = [0x56, 0x78] ∧ nameWrite reg data = .eepromOpen) ∨
      (reg = 0x01 ∧ data = [0x00, 0x00] ∧ nameWrite reg data = .eepromClose) ∨
      (writeHasAlias reg data = false ∧ nameWrite reg data = .write reg data) := by
  have hall : ∀ m : BitVec 2, m = 0 ∨ m = 1 ∨ m = 2 ∨ m = 3 := by decide
  rw [← Bool.not_eq_true, writeHasAlias_iff]
  unfold nameWrite
  split_ifs with hE1 h0 h1 h2 h3 hzero hopen hone hclose
  · exact .inl ⟨0, hE1, h0, rfl⟩
  · exact .inl ⟨1, hE1, h1, rfl⟩
  · exact .inl ⟨2, hE1, h2, rfl⟩
  · exact .inl ⟨3, hE1, h3, rfl⟩
  · refine .inr (.inr (.inr ⟨?_, rfl⟩))
    rintro (⟨-, m, hm⟩ | ⟨hreg, -⟩ | ⟨hreg, -⟩)
    · obtain rfl | rfl | rfl | rfl := hall m <;> contradiction
    · rw [hE1] at hreg; cases hreg
    · rw [hE1] at hreg; cases hreg
  · exact .inr (.inl ⟨hzero, hopen, rfl⟩)
  · refine .inr (.inr (.inr ⟨?_, rfl⟩))
    rintro (⟨hreg, -⟩ | ⟨-, hm⟩ | ⟨hreg, -⟩)
    · exact hE1 hreg
    · exact hopen hm
    · rw [hzero] at hreg; cases hreg
  · exact .inr (.inr (.inl ⟨hone, hclose, rfl⟩))
  · exact .inr (.inr (.inr ⟨by tauto, rfl⟩))
  · exact .inr (.inr (.inr ⟨by tauto, rfl⟩))

theorem nameFrame_response (b1 b2 : Byte) (data : List Byte) : nameFrame .response b1 b2 data = .ok (.rsp b1 b2 data) := rfl

theorem nameFrame_read (reg : Byte) (data : List Byte) :
    nameFrame .request Config.opRead reg data = .ok (nameRead reg data) := rfl

theorem nameFrame_write (reg : Byte) (data : List Byte) :
    nameFrame .request Config.opWrite reg data = .ok (nameWrite reg data) := rfl

/-- What a frame can be named: a response, a read or a write request, or nothing (30_encoding.md R39). -/
theorem nameFrame_cases (dir : Dir) (b1 b2 : Byte) (data : List Byte) :
    (dir = .response ∧ nameFrame dir b1 b2 data = .ok (.rsp b1 b2 data)) ∨
      (dir = .request ∧ b1 = Config.opRead ∧ nameFrame dir b1 b2 data = .ok (nameRead b2 data)) ∨
      (dir = .request ∧ b1 = Config.opWrite ∧ nameFrame dir b1 b2 data = .ok (nameWrite b2 data)) ∨
      (dir = .request ∧ b1 ≠ Config.opRead ∧ b1 ≠ Config.opWrite ∧
        nameFrame dir b1 b2 data = .error .requestOpcodeReserved) := by
  cases dir with
  | response => exact .inl ⟨rfl, rfl⟩
  | request =>
    by_cases hread : b1 = Config.opRead
    · exact .inr (.inl ⟨rfl, hread, by rw [hread, nameFrame_read]⟩)
    by_cases hwrite : b1 = Config.opWrite
    · exact .inr (.inr (.inl ⟨rfl, hwrite, by rw [hwrite, nameFrame_write]⟩))
    exact .inr (.inr (.inr ⟨rfl, hread, hwrite, by simp only [nameFrame, if_neg hread, if_neg hwrite]⟩))

/-- The name of a frame encodes to that frame. -/
theorem encode_of_nameFrame {dir : Dir} {b1 b2 : Byte} {data : List Byte} {i : Instr}
    (h : nameFrame dir b1 b2 data = .ok i) : encode i = .wire dir (frame b1 b2 data) := by
  obtain ⟨rfl, hn⟩ | ⟨rfl, rfl, hn⟩ | ⟨rfl, rfl, hn⟩ | ⟨-, -, -, hn⟩ := nameFrame_cases dir b1 b2 data <;>
    rw [hn] at h <;> cases h
  · rfl
  · obtain ⟨rfl, rfl, hr⟩ | ⟨rfl, rfl, hr⟩ | ⟨rfl, rfl, hr⟩ | ⟨-, hr⟩ := nameRead_cases b2 data <;> rw [hr] <;> rfl
  · obtain ⟨m, rfl, rfl, hw⟩ | ⟨rfl, rfl, hw⟩ | ⟨rfl, rfl, hw⟩ | ⟨-, hw⟩ := nameWrite_cases b2 data <;> rw [hw] <;> rfl

/-- The name of a frame whose payload fits is a well-formed instruction. -/
theorem wellFormed_of_nameFrame {dir : Dir} {b1 b2 : Byte} {data : List Byte} {i : Instr} (hfits : data.length ≤ 255)
    (h : nameFrame dir b1 b2 data = .ok i) : wellFormed i = true := by
  have hp : payloadFits data = true := decide_eq_true hfits
  obtain ⟨-, hn⟩ | ⟨-, -, hn⟩ | ⟨-, -, hn⟩ | ⟨-, -, -, hn⟩ := nameFrame_cases dir b1 b2 data <;>
    rw [hn] at h <;> cases h
  · exact hp
  · obtain ⟨-, -, hr⟩ | ⟨-, -, hr⟩ | ⟨-, -, hr⟩ | ⟨halias, hr⟩ := nameRead_cases b2 data <;> rw [hr]
    · rfl
    · rfl
    · rfl
    · simp [wellFormed, hp, halias]
  · obtain ⟨m, -, -, hw⟩ | ⟨-, -, hw⟩ | ⟨-, -, hw⟩ | ⟨halias, hw⟩ := nameWrite_cases b2 data <;> rw [hw]
    · rfl
    · rfl
    · rfl
    · simp [wellFormed, hp, halias]

theorem nameRead_of_not_alias {reg : Byte} {data : List Byte} (h : readHasAlias reg data = false) :
    nameRead reg data = .read reg data := by
  obtain ⟨rfl, rfl, -⟩ | ⟨rfl, rfl, -⟩ | ⟨rfl, rfl, -⟩ | ⟨-, hr⟩ := nameRead_cases reg data
  · cases h
  · cases h
  · cases h
  · exact hr

theorem nameWrite_of_not_alias {reg : Byte} {data : List Byte} (h : writeHasAlias reg data = false) :
    nameWrite reg data = .write reg data := by
  obtain ⟨m, rfl, rfl, -⟩ | ⟨rfl, rfl, -⟩ | ⟨rfl, rfl, -⟩ | ⟨-, hw⟩ := nameWrite_cases reg data
  · have halias := (writeHasAlias_iff 0xE1 (mosfetPayload m)).2 (.inl ⟨rfl, m, rfl⟩)
    rw [halias] at h; cases h
  · cases h
  · cases h
  · exact hw

theorem nameWrite_mosfet (m : BitVec 2) : nameWrite 0xE1 (mosfetPayload m) = .mosfet m := by
  revert m
  decide

/-! ## Whole frames on the wire -/

theorem toNat_lenByte {n : Nat} (h : n ≤ 255) : (lenByte n).toNat = n := by
  rw [lenByte, BitVec.toNat_ofNat]
  omega

@[simp] theorem length_frameTail (b2 : Byte) (data : List Byte) : (frameTail b2 data).length = 3 := rfl

/-- A whole frame is read by the name of its fields: its length is the one it declares, its tail its own. -/
theorem decode_wire_frame (dir : Dir) (b1 b2 : Byte) {data : List Byte} (hfits : data.length ≤ 255) :
    decode (.wire dir (frame b1 b2 data)) = nameFrame dir b1 b2 data := by
  have hlen := toNat_lenByte hfits
  have hbody : decode (.wire dir (frame b1 b2 data)) =
      decodeBody dir b1 b2 (lenByte data.length) (data ++ frameTail b2 data) := rfl
  rw [hbody, decodeBody, hlen, List.take_left, if_neg (by simp), if_pos (by simp), if_pos rfl]

/-- Settles O2 (30_encoding.md R30, R39 to R41): a command packet holds its operands as they are, and a frame is read by the
name of its fields, which is the well-formed instruction's own. -/
theorem decodeOfEncodeIsTheInstruction : Obligations.DecodeOfEncodeIsTheInstruction := by
  intro i hwf
  cases i with
  | reset => rfl
  | chkClr => rfl
  | chkUpd b => rfl
  | chkGet => rfl
  | encReq rw reg data => cases rw <;> rfl
  | encRsp reg status data => rfl
  | decRun dir inp => cases dir <;> rfl
  | reserved7 => rfl
  | rsmPush chunk => rfl
  | rsmFlush => rfl
  | rsmClr => rfl
  | rsmSplit bytes => rfl
  | reservedCF low =>
    have hall : ∀ low, decode (encode (.reservedCF low)) = .ok (.reservedCF low) := by decide
    exact hall low
  | read reg data =>
    obtain ⟨hfits, halias⟩ : data.length ≤ 255 ∧ readHasAlias reg data = false := by
      simpa [wellFormed, payloadFits, Config.lenMax] using hwf
    rw [encode, decode_wire_frame _ _ _ hfits, nameFrame_read, nameRead_of_not_alias halias]
  | write reg data =>
    obtain ⟨hfits, halias⟩ : data.length ≤ 255 ∧ writeHasAlias reg data = false := by
      simpa [wellFormed, payloadFits, Config.lenMax] using hwf
    rw [encode, decode_wire_frame _ _ _ hfits, nameFrame_write, nameWrite_of_not_alias halias]
  | rsp reg status data =>
    have hfits : data.length ≤ 255 := of_decide_eq_true hwf
    rw [encode, decode_wire_frame _ _ _ hfits, nameFrame_response]
  | hwinfo => rw [encode, decode_wire_frame _ _ _ (by decide), nameFrame_read]; rfl
  | cellinfo => rw [encode, decode_wire_frame _ _ _ (by decide), nameFrame_read]; rfl
  | hwver => rw [encode, decode_wire_frame _ _ _ (by decide), nameFrame_read]; rfl
  | mosfet m =>
    have hfits : (mosfetPayload m).length ≤ 255 := by simp [mosfetPayload]
    rw [encode, decode_wire_frame _ _ _ hfits, nameFrame_write, nameWrite_mosfet]
  | eepromOpen => rw [encode, decode_wire_frame _ _ _ (by decide), nameFrame_write]; rfl
  | eepromClose => rw [encode, decode_wire_frame _ _ _ (by decide), nameFrame_write]; rfl
  | txtHex text => rfl
  | txtEsc text => rfl

/-- Settles O4 (30_encoding.md R39, R40). -/
theorem wholeFramesHaveOneReading : Obligations.WholeFramesHaveOneReading := by
  intro dir b1 b2 data hfits
  rw [decode_wire_frame dir b1 b2 hfits]
  refine ⟨fun i => encode_of_nameFrame, ?readable⟩
  case readable =>
    obtain ⟨hdir, hn⟩ | ⟨-, hb1, hn⟩ | ⟨-, hb1, hn⟩ | ⟨hdir, hread, hwrite, hn⟩ := nameFrame_cases dir b1 b2 data
    · exact iff_of_true ⟨_, hn⟩ (.inl hdir)
    · exact iff_of_true ⟨_, hn⟩ (.inr (.inl hb1))
    · exact iff_of_true ⟨_, hn⟩ (.inr (.inr hb1))
    · exact iff_of_false (by simp [hn]) (by rintro (h | h | h); exacts [by simp [hdir] at h, hread h, hwrite h])

/-! ## What the decoder answers -/

theorem noArgument_eq_ok {i j : Instr} {args : List Byte} (h : noArgument i args = .ok j) : j = i := by
  cases args <;> cases h
  rfl

theorem decodeChkUpd_eq_ok {args : List Byte} {i : Instr} (h : decodeChkUpd args = .ok i) : ∃ b, i = .chkUpd b := by
  unfold decodeChkUpd at h
  split at h <;> cases h
  exact ⟨_, rfl⟩

theorem decodeEncReq_eq_ok {rw : Rw} {args : List Byte} {i : Instr} (h : decodeEncReq rw args = .ok i) :
    ∃ reg data, i = .encReq rw reg data := by
  cases args <;> cases h
  exact ⟨_, _, rfl⟩

theorem decodeEncRsp_eq_ok {args : List Byte} {i : Instr} (h : decodeEncRsp args = .ok i) :
    ∃ reg status data, i = .encRsp reg status data := by
  unfold decodeEncRsp at h
  split at h <;> cases h
  exact ⟨_, _, _, rfl⟩

/-- An operation of the command port takes operands of every value. -/
theorem wellFormed_of_decodeSelected {sel : Byte} {args : List Byte} {i : Instr} (h : decodeSelected sel args = .ok i) :
    wellFormed i = true := by
  unfold decodeSelected at h
  split at h
  case h_1 | h_2 | h_4 | h_8 | h_10 | h_11 | h_13 => rw [noArgument_eq_ok h]; rfl
  case h_3 => obtain ⟨b, rfl⟩ := decodeChkUpd_eq_ok h; rfl
  case h_5 => obtain ⟨reg, data, rfl⟩ := decodeEncReq_eq_ok h; rfl
  case h_6 => obtain ⟨reg, status, data, rfl⟩ := decodeEncRsp_eq_ok h; rfl
  case h_7 | h_9 | h_12 => cases h; rfl

/-- A head alone is read only as a pseudo-instruction with a fixed payload. -/
theorem nameHead_eq_ok {dir : Dir} {b1 b2 len : Byte} {i : Instr} (h : nameHead dir b1 b2 len = .ok i) :
    i = .eepromOpen ∨ i = .eepromClose := by
  unfold nameHead at h
  split_ifs at h <;> cases h
  · exact .inl rfl
  · exact .inr rfl

/-- What follows a head is read as a payload that fits LEN, or it is left out. -/
theorem decodeBody_eq_ok {dir : Dir} {b1 b2 len : Byte} {rest : List Byte} {i : Instr}
    (h : decodeBody dir b1 b2 len rest = .ok i) :
    (∃ data, data.length ≤ 255 ∧ nameFrame dir b1 b2 data = .ok i) ∨ nameHead dir b1 b2 len = .ok i := by
  have hlen : len.toNat < 256 := len.isLt
  unfold decodeBody at h
  split_ifs at h with hwhole
  · exact .inl ⟨rest, by omega, h⟩
  · exact .inl ⟨rest.take len.toNat, by rw [List.length_take]; omega, h⟩
  · exact .inr h

theorem wellFormed_of_decodeWire {dir : Dir} {bytes : List Byte} {i : Instr} (h : decodeWire dir bytes = .ok i) :
    wellFormed i = true := by
  unfold decodeWire at h
  split at h
  · split_ifs at h
    obtain ⟨data, hfits, hn⟩ | hn := decodeBody_eq_ok h
    · exact wellFormed_of_nameFrame hfits hn
    · obtain rfl | rfl := nameHead_eq_ok hn <;> rfl
  · cases h

/-- Settles O3 (30_encoding.md R34, R39, R40). -/
theorem decodeAnswersWellFormedInstructions : Obligations.DecodeAnswersWellFormedInstructions := by
  intro p i h
  cases p with
  | cmd bytes =>
    cases bytes with
    | nil => cases h
    | cons sel args => exact wellFormed_of_decodeSelected h
  | wire dir bytes => exact wellFormed_of_decodeWire h
  | text fmt chars => cases fmt <;> cases h <;> rfl

/-- Settles O1: closed words, each run through the decoder. -/
theorem decodesWordsOfTheSpec : Obligations.DecodesWordsOfTheSpec :=
  ⟨rfl, rfl, rfl, rfl, rfl, rfl, rfl, rfl, rfl, rfl, rfl, rfl, rfl⟩

/-! ## The step, reset and the reserved codes -/

/-- Settles O5 (20_memory.md R26, R28). -/
theorem stepExecutesTheOldestOperation : Obligations.StepExecutesTheOldestOperation := by
  refine ⟨fun s p rest i hp hd => ?execute, fun s p rest why hp hd => ?refuse, fun s hp => ?wait⟩
  case execute => simp [step, State.take, hp, hd]
  case refuse => simp [step, State.take, hp, hd]
  case wait => simp [step, State.take, hp]

/-- Settles O6 (10_state.md R17). -/
theorem resetStateIsTheSpecs : Obligations.ResetStateIsTheSpecs :=
  ⟨State.reset_acc, State.reset_buf, if_pos State.reset_buf⟩

/-- Settles O7 (70_reset_and_hazards.md R120): one write of each element; CHK.CLR and RSM.CLR write one each. -/
theorem resetClearsBothElements : Obligations.ResetClearsBothElements :=
  ⟨rfl, fun s => ⟨exec_reset s, _, _, exec_chkClr s, exec_rsmClr _, rfl, rfl⟩⟩

/-- The command code that a reserved row carries (30_encoding.md R42). -/
theorem reservedCode_eq (low : BitVec 2) : (0xC ||| low.setWidth 4 : BitVec 4) = BitVec.ofNat 4 (12 + low.toNat) := by
  revert low
  decide

/-- Settles O8 (30_encoding.md R42). -/
theorem reservedCodesAreRefused : Obligations.ReservedCodesAreRefused := by
  refine ⟨exec_reserved7, fun low s => ?refused, rfl, ?code⟩
  case refused => rw [exec_reservedCF, reservedCode_eq, refuseCommand]
  case code => decide

/-- Settles O53 (60_exceptions.md R101). -/
theorem outcomeCodes : Obligations.OutcomeCodes := ⟨fun _ => rfl, rfl⟩

/-! ## Runs of issued operations -/

/-- Well-formed operations, issued in order with nothing before them, have their effects one after the other. -/
theorem runSteps_issue (is : List Instr) (s : State) (hs : s.pending = [])
    (h : ∀ i ∈ is, wellFormed i = true ∧ isReserved i = false) :
    runSteps is.length (s.issue is) = .next (is.foldl State.effect s) := by
  induction is generalizing s with
  | nil => simp [State.issue]
  | cons i is ih =>
    obtain ⟨hwf, hres⟩ := h i (by simp)
    have hstep : step (s.issue (i :: is)) = .next ((s.effect i).issue is) := by
      obtain ⟨hexecute, -, -⟩ := stepExecutesTheOldestOperation
      rw [hexecute _ (encode i) (is.map encode) i (by simp [State.issue, hs]) (decodeOfEncodeIsTheInstruction i hwf),
        exec_eq_next_effect i _ hres]
      simp [State.issue, State.effect, hs]
    rw [List.length_cons, runSteps_succ _ _ _ hstep, List.foldl_cons]
    exact ih (s.effect i) hs fun j hj => h j (by simp [hj])

theorem foldl_effect_pending (is : List Instr) (s : State) : (is.foldl State.effect s).pending = s.pending := by
  induction is generalizing s with
  | nil => rfl
  | cons i is ih => rw [List.foldl_cons, ih, State.effect_pending]

/-- Each operation adds one outcome. -/
theorem foldl_effect_results_length (is : List Instr) (s : State) :
    (is.foldl State.effect s).results.length = s.results.length + is.length := by
  induction is generalizing s with
  | nil => rfl
  | cons i is ih => rw [List.foldl_cons, ih, State.effect_results, List.length_append, List.length_singleton,
      List.length_cons]; omega

/-- Settles O52 (60_exceptions.md R107, 20_memory.md R26). -/
theorem issuedOperationsAlwaysComplete : Obligations.IssuedOperationsAlwaysComplete := by
  intro s is hs h
  exact ⟨_, runSteps_issue is s hs h, (foldl_effect_pending is s).trans hs, foldl_effect_results_length is s⟩

end Sys2Proof.Machine
end

section
/-! PROOFS. The checksum of a byte sequence (40_checksum.md sections 2 and 3): it is the negated sum of the bytes, so what it sees
and does not see of a sequence is what the sum does. -/

namespace Sys2Proof.Machine

/-! ## The sum of the bytes -/

theorem byteSum_append (s t : List Byte) : byteSum (s ++ t) = byteSum s + byteSum t := by
  simp [byteSum]

theorem byteSum_perm {s t : List Byte} (h : s.Perm t) : byteSum s = byteSum t :=
  (h.map BitVec.toNat).sum_eq

theorem byteSum_eq_zero_iff (s : List Byte) : byteSum s = 0 ↔ ∀ b ∈ s, b = 0x00 := by
  induction s with
  | nil => simp
  | cons b s ih =>
    rw [byteSum_cons, Nat.add_eq_zero_iff, ih, List.forall_mem_cons, BitVec.toNat_eq]
    rfl

theorem byteSum_le (s : List Byte) : byteSum s ≤ 255 * s.length := by
  induction s with
  | nil => simp
  | cons b s ih =>
    have hb : b.toNat < 256 := b.isLt
    rw [byteSum_cons, List.length_cons]
    omega

/-! ## The checksum, by the sum -/

/-- Two sequences have the same checksum exactly when their sums agree modulo 65536. -/
theorem chk16_eq_iff (s t : List Byte) : chk16 s = chk16 t ↔ byteSum s % 65536 = byteSum t % 65536 := by
  rw [BitVec.toNat_eq, toNat_chk16, toNat_chk16, sumChecksum, sumChecksum]
  omega

@[simp] theorem chk16_nil : chk16 [] = 0 := rfl

/-- Settles O13 (40_checksum.md R53). -/
theorem chk16IsTheNegatedSum : Obligations.Chk16IsTheNegatedSum := by
  refine ⟨chk16_nil, fun s b => ?append, toNat_chk16⟩
  case append => rw [chk16, List.foldl_append]; rfl

/-- Settles O14 (40_checksum.md R54 (e)): the sum of a concatenation is the sum of the sums. -/
theorem chk16OfConcatenation : Obligations.Chk16OfConcatenation := by
  refine ⟨fun s t => ?concatenation, fun s => ?verification⟩
  case concatenation =>
    apply BitVec.eq_of_toNat_eq
    rw [BitVec.toNat_add, toNat_chk16, toNat_chk16, toNat_chk16, sumChecksum, sumChecksum, sumChecksum, byteSum_append]
    omega
  case verification =>
    rw [toNat_chk16, sumChecksum]
    omega

/-- Settles O15 (40_checksum.md R54 (e)): a sum does not depend on the order. -/
theorem chk16IgnoresOrder : Obligations.Chk16IgnoresOrder := by
  intro s t h
  rw [chk16_eq_iff, byteSum_perm h]

/-- Settles O16 (40_checksum.md R54 (e)): neither change alters the sum. -/
theorem chk16BlindSpots : Obligations.Chk16BlindSpots := by
  refine ⟨fun s t => ?zero, fun s t u a b a' b' hsum => ?compensation⟩
  case zero =>
    have hzero : (0x00 : Byte).toNat = 0 := rfl
    rw [chk16_eq_iff, byteSum_append, byteSum_append, byteSum_cons, hzero, Nat.zero_add]
  case compensation =>
    simp only [chk16_eq_iff, byteSum_append, byteSum_cons]
    omega

/-- Settles O17 (40_checksum.md R54 (e)): one byte changes the sum by less than 256, so never by a multiple of 65536. -/
theorem chk16SeesASingleChange : Obligations.Chk16SeesASingleChange := by
  intro s t a b
  have ha : a.toNat < 256 := a.isLt
  have hb : b.toNat < 256 := b.isLt
  rw [chk16_eq_iff, BitVec.toNat_eq, byteSum_append, byteSum_append, byteSum_cons, byteSum_cons]
  omega

/-- Settles O18 (40_checksum.md R55): 257 bytes add up to 65535 at most, so the sum does not wrap. -/
theorem chk16WithinAFrame : Obligations.Chk16WithinAFrame := by
  intro s hlen
  have hsum : byteSum s ≤ 65535 := by
    have := byteSum_le s
    omega
  have hmod : byteSum s % 65536 = byteSum s := Nat.mod_eq_of_lt (by omega)
  refine ⟨hsum, ?zero, ?positive⟩
  case zero => rw [← chk16_nil, chk16_eq_iff, hmod, byteSum_nil, byteSum_eq_zero_iff]
  case positive =>
    rintro ⟨b, hb, hne⟩
    have hpos : byteSum s ≠ 0 := fun h => hne ((byteSum_eq_zero_iff s).1 h b hb)
    rw [toNat_chk16, sumChecksum, hmod]
    omega

/-! ## The checksum by CHK -/

/-- A run of CHK.UPD folds its bytes into the accumulator. -/
theorem foldl_effect_chkUpd (bytes : List Byte) (s : State) :
    (bytes.map Instr.chkUpd).foldl State.effect s =
      { s with acc := bytes.foldl chkFold s.acc, results := s.results ++ List.replicate bytes.length (.ok .unit) } := by
  induction bytes generalizing s with
  | nil => simp
  | cons b bytes ih =>
    rw [List.map_cons, List.foldl_cons, ih]
    simp [State.effect, accAfter, bufAfter, resultOf, List.replicate_succ]

/-- Settles O12 (40_checksum.md R53): the run's operations are well formed and have their effects in order: the accumulator is
cleared, every byte is folded in, and what is returned is `chk16`. -/
theorem checksumRunReturnsChk16 : Obligations.ChecksumRunReturnsChk16 := by
  intro bytes s hs
  have hrun : ∀ i ∈ Instr.chkClr :: bytes.map .chkUpd ++ [.chkGet], wellFormed i = true ∧ isReserved i = false := by
    simp only [List.cons_append, List.mem_cons, List.mem_append, List.mem_map, List.not_mem_nil, or_false]
    rintro i (rfl | ⟨b, -, rfl⟩ | rfl) <;> exact ⟨rfl, rfl⟩
  have hsteps := runSteps_issue _ s hs hrun
  rw [List.foldl_append, List.foldl_cons, List.foldl_nil, List.foldl_cons, foldl_effect_chkUpd] at hsteps
  simpa [State.effect, accAfter, bufAfter, resultOf, chk16, hs, List.replicate_succ] using hsteps

end Sys2Proof.Machine
end

section
/-! PROOFS. The frame: the byte at every offset (41_frame_encoder.md R64), and the operations that return one. -/

namespace Sys2Proof.Machine

/-! ## Its layout -/

/-- A frame as its head, byte by byte, then what follows. -/
theorem frame_eq_cons (b1 b2 : Byte) (data : List Byte) :
    frame b1 b2 data = 0xDD :: b1 :: b2 :: lenByte data.length :: (data ++ frameTail b2 data) := rfl

@[simp] theorem length_frame (b1 b2 : Byte) (data : List Byte) : (frame b1 b2 data).length = 7 + data.length := by
  simp [frame_eq_cons]
  omega

/-- The byte at an offset after the head. -/
theorem frame_getElem? (b1 b2 : Byte) (data : List Byte) (k : Nat) :
    (frame b1 b2 data)[4 + k]? = (data ++ frameTail b2 data)[k]? := by
  rw [frame_eq_cons, Nat.add_comm]
  rfl

/-- The byte at an offset of the tail. -/
theorem frame_getElem?_tail (b1 b2 : Byte) (data : List Byte) (k : Nat) :
    (frame b1 b2 data)[4 + k + data.length]? = (frameTail b2 data)[k]? := by
  rw [Nat.add_assoc, frame_getElem?, List.getElem?_append_right (by omega), Nat.add_sub_cancel]

/-- Settles O21 (41_frame_encoder.md R64 item 1; 20_memory.md R25). -/
theorem frameHasItsLayout : Obligations.FrameHasItsLayout := by
  intro b1 b2 data hfits
  have htail := frame_getElem?_tail b1 b2 data
  refine ⟨length_frame b1 b2 data, rfl, rfl, rfl, ?len, fun k hk => ?payload, ?high, ?low, htail 2⟩
  case len => exact congrArg some (toNat_lenByte hfits)
  case payload => rw [frame_getElem?, List.getElem?_append_left hk]
  case high =>
    rw [htail 0, ← toNat_frameChecksum, ← toNat_hi8]
    rfl
  case low =>
    rw [htail 1, ← toNat_frameChecksum, ← toNat_lo8]
    rfl

/-- Settles O22 (41_frame_encoder.md R64 item 5): the head gives b1, b2 and the length, and the length tells the payload from
the tail. -/
theorem frameIsInjective : Obligations.FrameIsInjective := by
  intro b1 b2 c1 c2 data data' hfits hfits' heq
  simp only [frame_eq_cons, List.cons.injEq, true_and] at heq
  obtain ⟨hb1, hb2, hlen, hrest⟩ := heq
  have hlength : data.length = data'.length := by rw [← toNat_lenByte hfits, hlen, toNat_lenByte hfits']
  exact ⟨hb1, hb2, List.append_inj_left hrest hlength⟩

/-! ## The operations that return a frame -/

/-- Settles O20 (41_frame_encoder.md R62). -/
theorem encRspReturnsTheResponseFrame : Obligations.EncRspReturnsTheResponseFrame :=
  fun reg status _ s => ⟨rfl, fun hfits => finish_encodeFrame_of_le hfits reg status s,
    fun hlong => finish_encodeFrame_of_gt hlong reg status s⟩

/-- Settles O23 (30_encoding.md R45): each wire kind is the encoder on its own fields. -/
theorem wireKindsExpandToTheirFrames : Obligations.WireKindsExpandToTheirFrames := by
  refine fun reg status data s => ⟨fun hfits => ⟨?_, ?_, ?_⟩, fun hlong => ⟨?_, ?_, ?_⟩⟩
  · rw [exec_read, finish_encodeFrame_of_le hfits]
  · rw [exec_write, finish_encodeFrame_of_le hfits]
  · rw [exec_rsp, finish_encodeFrame_of_le hfits]
  · rw [exec_read, finish_encodeFrame_of_gt hlong]
  · rw [exec_write, finish_encodeFrame_of_gt hlong]
  · rw [exec_rsp, finish_encodeFrame_of_gt hlong]

/-- The frame of MOSFET m (30_encoding.md R40). -/
theorem frameBytes_mosfet (m : BitVec 2) :
    frameBytes Config.opWrite 0xE1 (mosfetPayload m) =
      [0xDD, 0x5A, 0xE1, 0x02, 0x00, BitVec.ofNat 8 m.toNat, 0xFF, BitVec.ofNat 8 (0x1D - m.toNat), 0x77] := by
  revert m
  decide

/-- Settles O24 (30_encoding.md R40, R45): each pseudo-instruction is the encoder on closed fields. -/
theorem pseudoInstructionsExpandToTheirFrames : Obligations.PseudoInstructionsExpandToTheirFrames := by
  refine fun s => ⟨?_, ?_, ?_, fun m => ?mosfet, ?_, ?_⟩
  case mosfet => rw [exec_mosfet, finish_encodeFrame_of_le (by simp [mosfetPayload]), frameBytes_mosfet]
  · rw [exec_hwinfo, finish_encodeFrame_of_le (by decide)]; rfl
  · rw [exec_cellinfo, finish_encodeFrame_of_le (by decide)]; rfl
  · rw [exec_hwver, finish_encodeFrame_of_le (by decide)]; rfl
  · rw [exec_eepromOpen, finish_encodeFrame_of_le (by decide)]; rfl
  · rw [exec_eepromClose, finish_encodeFrame_of_le (by decide)]; rfl

end Sys2Proof.Machine
end

section
/-! PROOFS. The frame decoder (42_frame_decoder.md): which input gives which outcome, what it reads of the bytes of a frame, and
its statements. -/

namespace Sys2Proof.Machine

theorem exec_decRun_eq_next (dir : Dir) (inp : List Byte) (s : State) :
    exec (.decRun dir inp) s = .next (s.after (outcomeOf .record (decodeFrame dir inp))) :=
  finish_eq_next_after ..

/-! ## The first START byte -/

theorem FirstStart.mem {inp : List Byte} {i : Nat} (h : FirstStart inp i) : Config.startMarker ∈ inp :=
  List.mem_of_getElem? h.1

/-- There is only one first START byte. -/
theorem FirstStart.unique {inp : List Byte} {i j : Nat} (hi : FirstStart inp i) (hj : FirstStart inp j) : i = j := by
  obtain hlt | heq | hgt := Nat.lt_trichotomy i j
  · exact absurd hi.1 (hj.2 i hlt)
  · exact heq
  · exact absurd hj.1 (hi.2 j hgt)

/-- After noise without START, a START byte is the first. -/
theorem firstStart_append {noise : List Byte} (hnoise : (0xDD : Byte) ∉ noise) (rest : List Byte) :
    FirstStart (noise ++ 0xDD :: rest) noise.length := by
  refine ⟨by simp, fun j hj hstart => ?_⟩
  rw [List.getElem?_append_left hj] at hstart
  exact hnoise (List.mem_of_getElem? hstart)

/-! ## The outcomes of DEC.RUN -/

/-- The input holds, from its first START byte on, as many bytes as the LEN byte there declares (42_frame_decoder.md R71, tests 1
to 4). -/
structure FrameFits (inp : List Byte) (i : Nat) : Prop where
  firstStart : FirstStart inp i
  fits : 7 + declaredLen inp i ≤ inp.length - i

/-- The condition under which DEC.RUN raises each error (42_frame_decoder.md R72); it raises no other. -/
def DecCondition (inp : List Byte) : ErrCode → Prop
  | .tooShort => inp.length < 7 ∨ ∃ i, FirstStart inp i ∧ inp.length - i < 7
  | .badStart => 7 ≤ inp.length ∧ Config.startMarker ∉ inp
  | .lengthMismatch => ∃ i, FirstStart inp i ∧ 7 ≤ inp.length - i ∧ inp.length - i < 7 + declaredLen inp i
  | .badEnd => ∃ i, FrameFits inp i ∧ memRead1 inp (i + 6 + declaredLen inp i) ≠ 0x77
  | .checksumMismatch => ∃ i, FrameFits inp i ∧ memRead1 inp (i + 6 + declaredLen inp i) = 0x77 ∧
      coveredChecksum inp i (declaredLen inp i) ≠ memRead2 inp (i + 4 + declaredLen inp i)
  | .payloadTooLong => False
  | .textRefused => False

/-- The input holds a frame at its first START byte (42_frame_decoder.md R71, line 7). -/
structure DecAccepts (inp : List Byte) (i : Nat) : Prop extends FrameFits inp i where
  endMarker : memRead1 inp (i + 6 + declaredLen inp i) = 0x77
  checksum : coveredChecksum inp i (declaredLen inp i) = memRead2 inp (i + 4 + declaredLen inp i)

theorem decodeFrame_of_firstStart {inp : List Byte} {i : Nat} (dir : Dir) (hs : FirstStart inp i)
    (hlen : 7 ≤ inp.length - i) : decodeFrame dir inp = decodeDeclared dir inp i (declaredLen inp i) := by
  obtain ⟨hshort, -⟩ | ⟨-, hnone, -⟩ | ⟨j, -, -, hj, hshort, -⟩ | ⟨j, -, -, hj, -, heq⟩ := decodeFrame_cases dir inp
  · omega
  · exact absurd hs.mem hnone
  · have := hs.unique hj
    omega
  · rw [heq, hs.unique hj]

/-- Every input meets the condition of an error, which is raised, or it holds a frame, whose record is returned. -/
theorem decodeFrame_outcome (dir : Dir) (inp : List Byte) :
    (∃ c, DecCondition inp c ∧ decodeFrame dir inp = .error c) ∨
      ∃ i, DecAccepts inp i ∧ decodeFrame dir inp = .ok (recordAt dir inp i (declaredLen inp i)) := by
  obtain ⟨hshort, heq⟩ | ⟨hlen, hnone, heq⟩ | ⟨i, -, -, hs, hshort, heq⟩ | ⟨i, -, -, hs, hlen, heq⟩ :=
    decodeFrame_cases dir inp
  · exact .inl ⟨.tooShort, .inl hshort, heq⟩
  · exact .inl ⟨.badStart, ⟨hlen, hnone⟩, heq⟩
  · exact .inl ⟨.tooShort, .inr ⟨i, hs, hshort⟩, heq⟩
  · rw [heq]
    obtain ⟨hlong, heq⟩ | ⟨hfits, hend, heq⟩ | ⟨hfits, hend, hchk, heq⟩ | ⟨hfits, hend, hchk, heq⟩ :=
      decodeDeclared_cases dir inp i (declaredLen inp i)
    · exact .inl ⟨.lengthMismatch, ⟨i, hs, hlen, hlong⟩, heq⟩
    · exact .inl ⟨.badEnd, ⟨i, ⟨hs, hfits⟩, hend⟩, heq⟩
    · exact .inl ⟨.checksumMismatch, ⟨i, ⟨hs, hfits⟩, hend, hchk⟩, heq⟩
    · exact .inr ⟨i, ⟨⟨hs, hfits⟩, hend, hchk⟩, heq⟩

/-- Tests 5 to 7 decide between a record and the last two errors. -/
theorem decodeFrame_of_fits {inp : List Byte} {i : Nat} (dir : Dir) (h : FrameFits inp i) :
    decodeFrame dir inp =
      if memRead1 inp (i + 6 + declaredLen inp i) ≠ 0x77 then .error .badEnd
      else if coveredChecksum inp i (declaredLen inp i) ≠ memRead2 inp (i + 4 + declaredLen inp i) then
        .error .checksumMismatch
      else .ok (recordAt dir inp i (declaredLen inp i)) := by
  have hfits := h.fits
  rw [decodeFrame_of_firstStart dir h.firstStart (by omega), decodeDeclared, Config.overhead, if_neg (by omega)]

theorem decodeFrame_of_accepts {inp : List Byte} {i : Nat} (dir : Dir) (h : DecAccepts inp i) :
    decodeFrame dir inp = .ok (recordAt dir inp i (declaredLen inp i)) := by
  rw [decodeFrame_of_fits dir h.toFrameFits, if_neg (not_not.2 h.endMarker), if_neg (not_not.2 h.checksum)]

theorem decodeFrame_of_condition {inp : List Byte} {c : ErrCode} (dir : Dir) (h : DecCondition inp c) :
    decodeFrame dir inp = .error c := by
  cases c with
  | tooShort =>
    obtain hshort | ⟨i, hs, hshort⟩ := h
    · rw [decodeFrame, if_pos hshort]
    · obtain ⟨-, heq⟩ | ⟨-, hnone, -⟩ | ⟨j, -, -, -, -, heq⟩ | ⟨j, -, -, hj, hlen, -⟩ := decodeFrame_cases dir inp
      · exact heq
      · exact absurd hs.mem hnone
      · exact heq
      · have := hs.unique hj
        omega
  | badStart =>
    obtain ⟨hlen, hnone⟩ := h
    obtain ⟨hshort, -⟩ | ⟨-, -, heq⟩ | ⟨j, -, -, hj, -, -⟩ | ⟨j, -, -, hj, -, -⟩ := decodeFrame_cases dir inp
    · omega
    · exact heq
    · exact absurd hj.mem hnone
    · exact absurd hj.mem hnone
  | lengthMismatch =>
    obtain ⟨i, hs, hlen, hlong⟩ := h
    rw [decodeFrame_of_firstStart dir hs hlen, decodeDeclared, Config.overhead, if_pos hlong]
  | badEnd =>
    obtain ⟨i, hfits, hend⟩ := h
    rw [decodeFrame_of_fits dir hfits, if_pos hend]
  | checksumMismatch =>
    obtain ⟨i, hfits, hend, hchk⟩ := h
    rw [decodeFrame_of_fits dir hfits, if_neg (not_not.2 hend), if_pos hchk]
  | payloadTooLong => exact h.elim
  | textRefused => exact h.elim

/-- DEC.RUN raises an error exactly under its condition. -/
theorem decodeFrame_eq_error_iff (dir : Dir) (inp : List Byte) (c : ErrCode) :
    decodeFrame dir inp = .error c ↔ DecCondition inp c := by
  refine ⟨fun h => ?_, decodeFrame_of_condition dir⟩
  obtain ⟨c', hc, heq⟩ | ⟨i, -, heq⟩ := decodeFrame_outcome dir inp <;> rw [heq] at h <;> cases h
  exact hc

/-- DEC.RUN returns a record exactly where the input holds a frame, and then that frame's. -/
theorem decodeFrame_eq_ok_iff (dir : Dir) (inp : List Byte) (r : FrameRecord) :
    decodeFrame dir inp = .ok r ↔ ∃ i, DecAccepts inp i ∧ r = recordAt dir inp i (declaredLen inp i) := by
  constructor
  · intro h
    obtain ⟨c, -, heq⟩ | ⟨i, hi, heq⟩ := decodeFrame_outcome dir inp <;> rw [heq] at h <;> cases h
    exact ⟨i, hi, rfl⟩
  · rintro ⟨i, hi, rfl⟩
    exact decodeFrame_of_accepts dir hi

/-- Settles O28 (42_frame_decoder.md R70): no condition speaks of the direction. -/
theorem directionOnlyNamesTheFields : Obligations.DirectionOnlyNamesTheFields := by
  intro inp s
  simp only [exec_decRun_eq_next]
  obtain ⟨c, hc, -⟩ | ⟨i, hi, -⟩ := decodeFrame_outcome .request inp
  · refine .inr ⟨c, ?_, ?_⟩ <;> rw [decodeFrame_of_condition _ hc, outcomeOf_error]
  · refine .inl ⟨recordAt .request inp i (declaredLen inp i), ?_, ?_⟩ <;>
      rw [decodeFrame_of_accepts _ hi, outcomeOf_ok]
    rfl

/-! ## What the conditions read, byte by byte -/

/-- A read where the byte is there is that byte (20_memory.md R21). -/
theorem getElem?_eq_some_iff_memRead1 {b : List Byte} {k : Nat} (h : k < b.length) (v : Byte) :
    b[k]? = some v ↔ memRead1 b k = v := by
  simp [memRead1, List.getD, List.getElem?_eq_getElem h]

theorem toNat_joinBytes (hi lo : Byte) : (joinBytes hi lo).toNat = hi.toNat * 256 + lo.toNat := by
  rw [joinBytes, BitVec.toNat_append, ← Nat.shiftLeft_add_eq_or_of_lt lo.isLt, Nat.shiftLeft_eq]

/-- The checksum field read by DEC.RUN is big-endian (30_encoding.md R38). -/
theorem toNat_memRead2 (b : List Byte) (k : Nat) :
    (memRead2 b k).toNat = (memRead1 b k).toNat * 256 + (memRead1 b (k + 1)).toNat :=
  toNat_joinBytes ..

/-- The checksum computed by DEC.RUN is the closed form's, over b2, LEN and the payload (30_encoding.md R35). -/
theorem toNat_coveredChecksum (inp : List Byte) (i len : Nat) :
    (coveredChecksum inp i len).toNat = sumChecksum ((inp.drop (i + 2)).take (2 + len)) := by
  have hwidth : i + 4 + len - (i + 2) = 2 + len := by omega
  rw [coveredChecksum, toNat_chk16, slice, List.drop_take, hwidth]

theorem badEnd_condition_iff (inp : List Byte) :
    DecCondition inp .badEnd ↔
      ∃ i, FirstStart inp i ∧ 7 + declaredLen inp i ≤ inp.length - i ∧
        inp[i + 6 + declaredLen inp i]? ≠ some 0x77 := by
  refine exists_congr fun i => ⟨?_, ?_⟩
  · rintro ⟨⟨hs, hfits⟩, hend⟩
    exact ⟨hs, hfits, (getElem?_eq_some_iff_memRead1 (by omega) _).not.2 hend⟩
  · rintro ⟨hs, hfits, hend⟩
    exact ⟨⟨hs, hfits⟩, (getElem?_eq_some_iff_memRead1 (by omega) _).not.1 hend⟩

theorem checksumMismatch_condition_iff (inp : List Byte) :
    DecCondition inp .checksumMismatch ↔
      ∃ i hi lo, FirstStart inp i ∧ 7 + declaredLen inp i ≤ inp.length - i ∧
        inp[i + 6 + declaredLen inp i]? = some 0x77 ∧
        inp[i + 4 + declaredLen inp i]? = some hi ∧ inp[i + 5 + declaredLen inp i]? = some lo ∧
        sumChecksum ((inp.drop (i + 2)).take (2 + declaredLen inp i)) ≠ hi.toNat * 256 + lo.toNat := by
  have hfield (i : Nat) : i + 4 + declaredLen inp i + 1 = i + 5 + declaredLen inp i := by omega
  refine exists_congr fun i => ⟨?_, ?_⟩
  · rintro ⟨⟨hs, hfits⟩, hend, hchk⟩
    refine ⟨_, _, hs, hfits, (getElem?_eq_some_iff_memRead1 (by omega) _).2 hend,
      (getElem?_eq_some_iff_memRead1 (by omega) _).2 rfl, (getElem?_eq_some_iff_memRead1 (by omega) _).2 rfl, ?_⟩
    rwa [Ne, BitVec.toNat_eq, toNat_coveredChecksum, toNat_memRead2, hfield] at hchk
  · rintro ⟨hi, lo, hs, hfits, hend, hhi, hlo, hchk⟩
    rw [getElem?_eq_some_iff_memRead1 (by omega)] at hend hhi hlo
    refine ⟨⟨hs, hfits⟩, hend, ?_⟩
    rwa [Ne, BitVec.toNat_eq, toNat_coveredChecksum, toNat_memRead2, hfield, hhi, hlo]

/-- Settles O27 (42_frame_decoder.md R72, 60_exceptions.md R102, R104): each error exactly under its condition; a record exactly
where there is no error. -/
theorem decOutcomesExactly : Obligations.DecOutcomesExactly := by
  intro dir inp s
  have herr (c : ErrCode) : outcomeOf .record (decodeFrame dir inp) = .err c ↔ DecCondition inp c := by
    rw [outcomeOf_eq_err_iff, decodeFrame_eq_error_iff]
  refine ⟨by rw [encode, commandCode_cmd]; cases dir <;> rfl, _, exec_decRun_eq_next dir inp s, herr .tooShort,
    herr .badStart, herr .lengthMismatch, (herr .badEnd).trans (badEnd_condition_iff inp),
    (herr .checksumMismatch).trans (checksumMismatch_condition_iff inp), ?record⟩
  case record =>
    constructor
    · rintro ⟨fields, hr⟩
      rw [hr]
      simp
    · rintro ⟨htooShort, hbadStart, hlengthMismatch, hbadEnd, hchecksumMismatch⟩
      obtain ⟨c, hc, -⟩ | ⟨i, hi, -⟩ := decodeFrame_outcome dir inp
      · have hraised := (herr c).2 hc
        cases c with
        | tooShort => exact absurd hraised htooShort
        | badStart => exact absurd hraised hbadStart
        | lengthMismatch => exact absurd hraised hlengthMismatch
        | badEnd => exact absurd hraised hbadEnd
        | checksumMismatch => exact absurd hraised hchecksumMismatch
        | payloadTooLong => exact hc.elim
        | textRefused => exact hc.elim
      · exact ⟨_, by rw [decodeFrame_of_accepts dir hi, outcomeOf_ok]⟩

/-! ## The bytes of a candidate frame -/

/-- The bytes of a frame with any head, any checksum field and any last byte. -/
def candidate (b1 b2 len : Byte) (data : List Byte) (hi lo last : Byte) : List Byte :=
  0xDD :: b1 :: b2 :: len :: (data ++ [hi, lo, last])

/-- A frame is the candidate with its own LEN, its own checksum and END (30_encoding.md R30). -/
theorem frame_eq_candidate (b1 b2 : Byte) (data : List Byte) :
    frame b1 b2 data =
      candidate b1 b2 (lenByte data.length) data (hi8 (frameChecksum b2 data)) (lo8 (frameChecksum b2 data)) 0x77 := rfl

theorem memRead1_of_eq_append {inp pre rest : List Byte} {j : Nat} (h : inp = pre ++ rest) (k : Nat)
    (hj : j = pre.length + k) : memRead1 inp j = memRead1 rest k := by
  rw [h, hj, memRead1_append_right]

theorem slice_of_eq_append {inp pre mid post : List Byte} {i j : Nat} (h : inp = pre ++ mid ++ post)
    (hi : i = pre.length) (hj : j = pre.length + mid.length) : slice inp i j = mid := by
  rw [slice, h, hi, hj, ← List.length_append, List.take_left, List.drop_left]

/-- What DEC.RUN reads of a candidate behind noise: the tests of its END and of its checksum, over its own bytes. -/
theorem decodeFrame_candidate (dir : Dir) {noise : List Byte} (hnoise : (0xDD : Byte) ∉ noise) (b1 b2 : Byte) {len : Byte}
    {data : List Byte} (hlen : data.length = len.toNat) (hi lo last : Byte) (trailing : List Byte) :
    decodeFrame dir (noise ++ candidate b1 b2 len data hi lo last ++ trailing) =
      if last ≠ 0x77 then .error .badEnd
      else if chk16 (b2 :: len :: data) ≠ joinBytes hi lo then .error .checksumMismatch
      else .ok ⟨dir, noise.length, b1, b2, len, data, joinBytes hi lo, true⟩ := by
  generalize hinp : noise ++ candidate b1 b2 len data hi lo last ++ trailing = inp
  have hhead : inp = noise ++ (0xDD :: b1 :: b2 :: len :: (data ++ [hi, lo, last] ++ trailing)) := by
    simp [← hinp, candidate]
  have htail : inp = (noise ++ [0xDD, b1, b2, len] ++ data) ++ (hi :: lo :: last :: trailing) := by
    simp [← hinp, candidate]
  have hdeclared : declaredLen inp noise.length = data.length := by
    rw [hlen]
    exact congrArg BitVec.toNat (memRead1_of_eq_append hhead 3 rfl)
  have hfits : FrameFits inp noise.length := by
    refine ⟨hhead ▸ firstStart_append hnoise _, ?_⟩
    rw [hdeclared, htail]
    simp
    omega
  have hread (k j : Nat) (hj : j = noise.length + 4 + k + data.length) :
      memRead1 inp j = memRead1 (hi :: lo :: last :: trailing) k :=
    memRead1_of_eq_append htail k (by simp; omega)
  have hlast : memRead1 inp (noise.length + 6 + data.length) = last := hread 2 _ (by omega)
  have hfield : memRead2 inp (noise.length + 4 + data.length) = joinBytes hi lo := by
    rw [memRead2, hread 0 _ (by omega), hread 1 _ (by omega)]
    rfl
  have hcovered : coveredChecksum inp noise.length data.length = chk16 (b2 :: len :: data) := by
    rw [coveredChecksum, slice_of_eq_append (pre := noise ++ [0xDD, b1]) (mid := b2 :: len :: data)
      (post := [hi, lo, last] ++ trailing) (by simp [hhead]) (by simp) (by simp; omega)]
  have hpayload : slice inp (noise.length + 4) (noise.length + 4 + data.length) = data :=
    slice_of_eq_append (pre := noise ++ [0xDD, b1, b2, len]) (by simpa using htail) (by simp) (by simp)
  have hrecord : recordAt dir inp noise.length data.length =
      ⟨dir, noise.length, b1, b2, len, data, joinBytes hi lo, true⟩ := by
    rw [recordAt, hpayload, hfield, memRead1_of_eq_append hhead 1 rfl, memRead1_of_eq_append hhead 2 rfl,
      memRead1_of_eq_append hhead 3 rfl]
    rfl
  rw [decodeFrame_of_fits dir hfits, hdeclared, hlast, hcovered, hfield, hrecord]

theorem exists_eq_cons_cons_cons {l : List Byte} (h : 3 ≤ l.length) : ∃ a b c rest, l = a :: b :: c :: rest := by
  match l, h with
  | a :: b :: c :: rest, _ => exact ⟨a, b, c, rest, rfl⟩

/-- Where as many bytes stand as LEN declares, there is a candidate, behind noise without START. -/
theorem FrameFits.exists_candidate {inp : List Byte} {i : Nat} (h : FrameFits inp i) :
    ∃ noise b1 b2 len data hi lo last trailing, (0xDD : Byte) ∉ noise ∧ data.length = len.toNat ∧
      inp = noise ++ candidate b1 b2 len data hi lo last ++ trailing := by
  obtain ⟨⟨hstart, hbefore⟩, hfits⟩ := h
  obtain ⟨hi, hget⟩ := List.getElem?_eq_some_iff.1 hstart
  have hnoise : (0xDD : Byte) ∉ inp.take i := by
    intro hmem
    obtain ⟨j, hj⟩ := List.mem_iff_getElem?.1 hmem
    rw [List.getElem?_take] at hj
    split_ifs at hj with hlt
    exact hbefore j hlt hj
  have hlen : (inp.take i).length = i := List.length_take_of_le hi.le
  obtain ⟨b1, b2, len, body, hhead⟩ := exists_eq_cons_cons_cons (l := inp.drop (i + 1)) (by rw [List.length_drop]; omega)
  have hinp : inp = inp.take i ++ 0xDD :: b1 :: b2 :: len :: body := by
    have hdd : (0xDD : Byte) = inp[i] := hget.symm
    rw [← hhead, hdd, ← List.drop_eq_getElem_cons hi, List.take_append_drop]
  have hdeclared : declaredLen inp i = len.toNat :=
    congrArg BitVec.toNat (memRead1_of_eq_append hinp 3 (by omega))
  have hbody : inp.length = i + (4 + body.length) := by
    have := congrArg List.length hinp
    simp only [List.length_append, hlen, List.length_cons] at this
    omega
  obtain ⟨chi, clo, last, trailing, htail⟩ :=
    exists_eq_cons_cons_cons (l := body.drop len.toNat) (by rw [List.length_drop]; omega)
  refine ⟨inp.take i, b1, b2, len, body.take len.toNat, chi, clo, last, trailing, hnoise, ?_, ?_⟩
  · rw [List.length_take_of_le (by omega)]
  · calc inp = inp.take i ++ 0xDD :: b1 :: b2 :: len :: (body.take len.toNat ++ body.drop len.toNat) := by
          rw [List.take_append_drop, ← hinp]
      _ = _ := by simp [htail, candidate]

/-! ## Frames and records -/

@[simp] theorem joinBytes_hi8_lo8 (v : Word) : joinBytes (hi8 v) (lo8 v) = v := by
  apply BitVec.eq_of_toNat_eq
  rw [toNat_joinBytes, toNat_hi8, toNat_lo8]
  omega

/-- The record's checksum word is the closed form's (41_frame_encoder.md R64). -/
theorem frameRecord_crc (dir : Dir) (start : Nat) (b1 b2 : Byte) (data : List Byte) :
    (frameRecord dir start b1 b2 data).crc = frameChecksum b2 data := by
  rw [frameRecord, ← toNat_frameChecksum, BitVec.ofNat_toNat, BitVec.setWidth_eq]

theorem frameRecord_eq (dir : Dir) (start : Nat) (b1 b2 : Byte) (data : List Byte) :
    frameRecord dir start b1 b2 data =
      ⟨dir, start, b1, b2, lenByte data.length, data, frameChecksum b2 data, true⟩ := by
  rw [← frameRecord_crc dir start b1 b2 data]
  rfl

theorem decodeFrame_frame (dir : Dir) {noise : List Byte} (hnoise : (0xDD : Byte) ∉ noise) (b1 b2 : Byte)
    {data : List Byte} (hfits : data.length ≤ 255) (trailing : List Byte) :
    decodeFrame dir (noise ++ frame b1 b2 data ++ trailing) = .ok (frameRecord dir noise.length b1 b2 data) := by
  have hchk : chk16 (b2 :: lenByte data.length :: data) = frameChecksum b2 data := rfl
  rw [frame_eq_candidate, decodeFrame_candidate dir hnoise b1 b2 (toNat_lenByte hfits).symm, joinBytes_hi8_lo8,
    if_neg (not_not.2 rfl), if_neg (not_not.2 hchk), frameRecord_eq]

/-- Settles O25 (41_frame_encoder.md R64 items 2 and 3, 42_frame_decoder.md R73): a frame is the candidate that passes every test. -/
theorem framesDecodeToTheirFields : Obligations.FramesDecodeToTheirFields := by
  intro dir noise trailing b1 b2 data s hfits hnoise
  rw [exec_decRun_eq_next, decodeFrame_frame dir hnoise b1 b2 hfits, outcomeOf_ok]

/-- A candidate whose LEN, checksum field and last byte are right is the frame of its fields. -/
theorem candidate_eq_frame (b1 b2 : Byte) {len hi lo : Byte} {data : List Byte} (hlen : data.length = len.toNat)
    (hchk : chk16 (b2 :: len :: data) = joinBytes hi lo) :
    candidate b1 b2 len data hi lo 0x77 = frame b1 b2 data := by
  have hlenByte : lenByte data.length = len := by rw [hlen, lenByte, BitVec.ofNat_toNat, BitVec.setWidth_eq]
  have hjoin : frameChecksum b2 data = joinBytes hi lo := by rw [frameChecksum, hlenByte, hchk]
  have hsplit := toNat_joinBytes hi lo
  have hlo : lo.toNat < 256 := lo.isLt
  have hhi8 : hi8 (joinBytes hi lo) = hi := BitVec.eq_of_toNat_eq (by rw [toNat_hi8]; omega)
  have hlo8 : lo8 (joinBytes hi lo) = lo := BitVec.eq_of_toNat_eq (by rw [toNat_lo8]; omega)
  rw [frame_eq_candidate, hlenByte, hjoin, hhi8, hlo8]

/-- Settles O26 (42_frame_decoder.md R70 to R74): a record is returned only where a candidate stands and passes every test. -/
theorem recordsComeFromFrames : Obligations.RecordsComeFromFrames := by
  intro dir inp s r hexec
  have hdecode : decodeFrame dir inp = .ok r := by
    rw [exec_decRun_eq_next] at hexec
    cases h : decodeFrame dir inp with
    | ok r' => simpa [h] using hexec
    | error e => simp [h] at hexec
  obtain ⟨i, haccepts, -⟩ := (decodeFrame_eq_ok_iff dir inp r).1 hdecode
  obtain ⟨noise, b1, b2, len, data, hi, lo, last, trailing, hnoise, hlen, rfl⟩ := haccepts.toFrameFits.exists_candidate
  rw [decodeFrame_candidate dir hnoise b1 b2 hlen] at hdecode
  split_ifs at hdecode with hlast hchk
  have hframe : candidate b1 b2 len data hi lo last = frame b1 b2 data := by
    rw [not_not.1 hlast]
    exact candidate_eq_frame b1 b2 hlen (not_not.1 hchk)
  have hfits : data.length ≤ 255 := by
    have := len.isLt
    omega
  cases hdecode
  refine ⟨noise, trailing, hnoise, hfits, by rw [hframe], ?record⟩
  case record =>
    have h := decodeFrame_frame dir hnoise b1 b2 hfits trailing
    rw [← hframe, decodeFrame_candidate dir hnoise b1 b2 hlen, if_neg hlast, if_neg hchk] at h
    exact Except.ok.inj h

/-! ## Changed frames -/

/-- The checksum of a payload with one byte changed differs. -/
theorem chk16_set_ne {data : List Byte} {k : Nat} (hk : k < data.length) {v : Byte} (hv : data[k]? ≠ some v)
    (head : List Byte) : chk16 (head ++ data.set k v) ≠ chk16 (head ++ data) := by
  have hdata : head ++ data = (head ++ data.take k) ++ data[k] :: data.drop (k + 1) := by
    rw [List.append_assoc, ← List.drop_eq_getElem_cons hk, List.take_append_drop]
  rw [hdata, List.set_eq_take_append_cons_drop, if_pos hk, ← List.append_assoc, Ne, chk16SeesASingleChange]
  rintro rfl
  exact hv (List.getElem?_eq_getElem hk)

/-- A change of b2 or of one payload byte leaves a candidate whose checksum field is another's. -/
theorem frame_set_eq_candidate (b1 b2 : Byte) (data : List Byte) {k : Nat} {v : Byte}
    (hk : k = 2 ∨ (4 ≤ k ∧ k < 4 + data.length)) (hv : (frame b1 b2 data)[k]? ≠ some v) :
    ∃ c2 data', data'.length = data.length ∧
      chk16 (c2 :: lenByte data.length :: data') ≠ frameChecksum b2 data ∧
      (frame b1 b2 data).set k v = candidate b1 c2 (lenByte data.length) data' (hi8 (frameChecksum b2 data))
        (lo8 (frameChecksum b2 data)) 0x77 := by
  obtain rfl | ⟨hk4, hklen⟩ := hk
  · refine ⟨v, data, rfl, ?_, rfl⟩
    intro hchk
    obtain rfl := (chk16SeesASingleChange [] (lenByte data.length :: data) v b2).1 hchk
    exact hv rfl
  · obtain ⟨j, rfl⟩ := Nat.exists_eq_add_of_le hk4
    have hj : j < data.length := by omega
    rw [frame_getElem?, List.getElem?_append_left hj] at hv
    refine ⟨b2, data.set j v, List.length_set, chk16_set_ne hj hv [b2, lenByte data.length], ?_⟩
    rw [frame_eq_candidate, candidate, candidate, Nat.add_comm 4 j, ← List.set_append_left _ _ hj]
    rfl

/-- Settles O29 (40_checksum.md R56): the checksum field is the old bytes', and theirs differs from the new bytes'. -/
theorem singleByteChangeIsDetected : Obligations.SingleByteChangeIsDetected := by
  intro dir b1 b2 data k v s hfits hk hv
  obtain ⟨c2, data', hlen, hchk, heq⟩ := frame_set_eq_candidate b1 b2 data hk hv
  have hdecode := decodeFrame_candidate dir (noise := []) List.not_mem_nil b1 c2
    (hlen.trans (toNat_lenByte hfits).symm) (hi8 (frameChecksum b2 data)) (lo8 (frameChecksum b2 data)) 0x77 []
  rw [joinBytes_hi8_lo8, if_neg (not_not.2 rfl), if_pos hchk, List.nil_append, List.append_nil, ← heq] at hdecode
  rw [exec_decRun_eq_next, hdecode, outcomeOf_error]

/-- A frame's tail does not depend on the order of its payload (40_checksum.md R54 (e)). -/
theorem frameTail_perm (b2 : Byte) {data data' : List Byte} (h : data.Perm data') :
    frameTail b2 data = frameTail b2 data' := by
  have hchk : frameChecksum b2 data = frameChecksum b2 data' := by
    rw [frameChecksum, frameChecksum, h.length_eq]
    exact chk16IgnoresOrder _ _ ((h.cons _).cons _)
  rw [frameTail, frameTail, hchk]

/-- Settles O30 (42_frame_decoder.md R74 (a) and (f)): the changed bytes are another frame. -/
theorem uncheckedChangesDecode : Obligations.UncheckedChangesDecode := by
  intro dir b1 b2 v data data' s hfits hperm
  have htail : (frame b1 b2 data).drop (4 + data.length) = frameTail b2 data := by
    rw [frame_eq_cons, Nat.add_comm]
    exact List.drop_left
  have hframe : (frame b1 b2 data).take 1 ++ v :: b2 :: (frame b1 b2 data).getD 3 0 :: data' ++
      (frame b1 b2 data).drop (4 + data.length) = [] ++ frame v b2 data' ++ [] := by
    rw [htail, frameTail_perm b2 hperm, List.nil_append, List.append_nil, frame_eq_cons v, ← hperm.length_eq]
    rfl
  rw [hframe]
  exact framesDecodeToTheirFields dir [] [] v b2 data' s (hperm.length_eq ▸ hfits) List.not_mem_nil

/-! ## What the reassembler emits -/

theorem firstStart_zero {f : List Byte} (h : f.head? = some Config.startMarker) : FirstStart f 0 :=
  ⟨by rwa [← List.head?_eq_getElem?], fun j hj => absurd hj (Nat.not_lt_zero j)⟩

/-- A candidate frame holds, from its first byte on, the bytes it declares. -/
theorem frameFits_of_frame_shape {f : List Byte} (h : (Event.frame f).Shape) : FrameFits f 0 := by
  obtain ⟨-, -, hstart, hlen⟩ := h
  refine ⟨firstStart_zero hstart, ?_⟩
  have hdeclared : declaredLen f 0 = (memRead1 f 3).toNat := rfl
  omega

/-- A fragment is too short, or short of the bytes it declares. -/
theorem decCondition_of_fragment_shape {f : List Byte} (h : (Event.fragment f).Shape) :
    (f.length < 7 → DecCondition f .tooShort) ∧ (7 ≤ f.length → DecCondition f .lengthMismatch) := by
  obtain ⟨hne, hinv⟩ := h
  refine ⟨.inl, fun hlen => ⟨0, firstStart_zero (hinv.startsWithStart.resolve_left hne), hlen, ?_⟩⟩
  exact hinv.incomplete (by omega)

/-- Settles O31 (42_frame_decoder.md R75). -/
theorem decOnReassemblerOutput : Obligations.DecOnReassemblerOutput := by
  intro dir f s
  rw [exec_decRun_eq_next]
  refine ⟨fun hframe => ?frame, fun hfragment => ?fragment⟩
  case frame =>
    rw [decodeFrame_of_fits dir (frameFits_of_frame_shape hframe)]
    split_ifs with hend hchk
    · exact .inr (.inl rfl)
    · exact .inr (.inr rfl)
    · exact .inl ⟨_, rfl, rfl⟩
  case fragment =>
    obtain ⟨hshort, hlong⟩ := decCondition_of_fragment_shape hfragment
    exact ⟨fun h => by rw [decodeFrame_of_condition dir (hshort h), outcomeOf_error],
      fun h => by rw [decodeFrame_of_condition dir (hlong h), outcomeOf_error]⟩

end Sys2Proof.Machine
end

section
/-! PROOFS. The statements of the reassembler (43_reassembler.md): its operations, its events and the bytes they carry. -/

namespace Sys2Proof.Machine

/-! ## The operations -/

theorem exec_rsmPush_eq_next (chunk : List Byte) (s : State) :
    exec (.rsmPush chunk) s =
      .next (({ s with buf := (pushAll s.buf chunk).1 }).after (.ok (.events (pushAll s.buf chunk).2))) := rfl

theorem exec_rsmSplit_eq_next (bytes : List Byte) (s : State) :
    exec (.rsmSplit bytes) s = .next (({ s with buf := [] }).after (.ok (.events (splitEvents bytes)))) := rfl

/-- Settles O37 (43_reassembler.md R85). -/
theorem flushEmitsTheRemainder : Obligations.FlushEmitsTheRemainder := by
  refine ⟨rfl, fun s => ?_⟩
  rw [← flushEvents_eq]
  rfl

/-- Settles O38 (43_reassembler.md R86). -/
theorem rsmClrDiscardsTheBuffer : Obligations.RsmClrDiscardsTheBuffer := ⟨rfl, exec_rsmClr⟩

/-- Settles O39 (43_reassembler.md R87): after RSM.CLR the chunk is pushed into an empty buffer. -/
theorem splitIsClrPushFlush : Obligations.SplitIsClrPushFlush := fun bytes s =>
  ⟨rfl, _, _, _, _, _, exec_rsmClr s, exec_rsmPush_eq_next bytes _, rfl, exec_rsmFlush _, exec_rsmSplit_eq_next bytes s⟩

/-- Settles O33 (43_reassembler.md R82, R89 (a)). -/
theorem chunkBoundariesCarryNoMeaning : Obligations.ChunkBoundariesCarryNoMeaning := by
  intro c1 c2 s
  refine ⟨_, _, _, _, exec_rsmPush_eq_next c1 s, exec_rsmPush_eq_next c2 _, ?joined⟩
  case joined => rw [exec_rsmPush_eq_next, pushAll_append]

/-- Settles O34 (43_reassembler.md R89 (b)). -/
theorem pushConservesBytes : Obligations.PushConservesBytes := fun chunk s =>
  ⟨_, _, exec_rsmPush_eq_next chunk s, pushAll_conserves s.buf chunk⟩

/-- Settles O35 (43_reassembler.md R80, R88). -/
theorem pushEmitsWellShapedEvents : Obligations.PushEmitsWellShapedEvents := fun chunk s hinv =>
  ⟨_, _, exec_rsmPush_eq_next chunk s, pushAll_keeps_inv hinv chunk, pushAll_event_shape hinv chunk⟩

/-! ## Splitting -/

theorem payloads_flushEvents (buf : List Byte) : payloads (flushEvents buf) = buf := by
  cases buf <;> simp [flushEvents, payloads, Event.payload]

theorem flushEvents_cases (buf : List Byte) :
    (buf = [] ∧ flushEvents buf = []) ∨ (buf ≠ [] ∧ flushEvents buf = [.fragment buf]) := by
  cases buf with
  | nil => exact .inl ⟨rfl, rfl⟩
  | cons b rest => exact .inr ⟨List.cons_ne_nil b rest, rfl⟩

/-- The remainder of a buffer that meets the invariant is a fragment of its shape. -/
theorem flushEvents_shape {buf : List Byte} (hinv : RsmInv buf) : ∀ e ∈ flushEvents buf, e.Shape := by
  obtain ⟨-, heq⟩ | ⟨hne, heq⟩ := flushEvents_cases buf <;> rw [heq]
  · simp
  · intro e he
    rw [List.mem_singleton.1 he]
    exact ⟨hne, hinv⟩

/-- Settles O40 (43_reassembler.md R87, R89): the bytes pushed are in the events or in the buffer, and the buffer is flushed. -/
theorem splitConservesBytes : Obligations.SplitConservesBytes := by
  intro bytes s
  have hshape := pushAll_event_shape RsmInv.nil bytes
  refine ⟨_, _, exec_rsmSplit_eq_next bytes s, ?bytes, fun e he => (hshape e he).2, ?last, ?shape⟩
  case bytes => rw [payloads_append, payloads_flushEvents, pushAll_conserves, List.nil_append]
  case last =>
    obtain ⟨-, heq⟩ | ⟨-, heq⟩ := flushEvents_cases (pushAll [] bytes).1
    · exact .inl heq
    · exact .inr ⟨_, heq⟩
  case shape =>
    intro e he
    obtain he | he := List.mem_append.1 he
    · exact (hshape e he).1
    · exact flushEvents_shape (pushAll_keeps_inv RsmInv.nil bytes) e he

/-! ## The byte step -/

theorem pushAll_singleton (buf : List Byte) (b : Byte) : pushAll buf [b] = push1 buf b := by
  rw [pushAll_cons, pushAll_nil, List.append_nil]

theorem push1_nil_start : push1 [] Config.startMarker = ([Config.startMarker], []) := rfl

theorem push1_nil_of_ne {b : Byte} (h : b ≠ Config.startMarker) : push1 [] b = ([], [.skip b]) := by
  rw [push1, huntByte, if_neg h]

theorem push1_of_complete {buf : List Byte} (hne : buf ≠ []) {b : Byte} (h : bufComplete (buf ++ [b]) = true) :
    push1 buf b = ([], [.frame (buf ++ [b])]) := by
  obtain ⟨hnil, -⟩ | ⟨hnil, -⟩ | ⟨-, -, heq⟩ | ⟨-, hopen, -⟩ := push1_cases buf b
  · exact absurd hnil hne
  · exact absurd hnil hne
  · exact heq
  · simp [h] at hopen

theorem push1_of_incomplete {buf : List Byte} (hne : buf ≠ []) {b : Byte} (h : bufComplete (buf ++ [b]) = false) :
    push1 buf b = (buf ++ [b], []) := by
  obtain ⟨hnil, -⟩ | ⟨hnil, -⟩ | ⟨-, hfull, -⟩ | ⟨-, -, heq⟩ := push1_cases buf b
  · exact absurd hnil hne
  · exact absurd hnil hne
  · simp [h] at hfull
  · exact heq

theorem bufComplete_append_iff (buf : List Byte) (b : Byte) :
    bufComplete (buf ++ [b]) = true ↔
      4 ≤ buf.length + 1 ∧ buf.length + 1 = 7 + ((buf ++ [b]).getD 3 0).toNat := by
  rw [bufComplete_iff, List.length_append, List.length_singleton, memRead1]

theorem State.with_buf_self {s : State} {b : List Byte} (h : s.buf = b) : { s with buf := b } = s := by
  rw [← h]

/-- Settles O32 (43_reassembler.md R81, R83). -/
theorem pushOfOneByte : Obligations.PushOfOneByte := by
  refine ⟨fun chunk => rfl, fun b s => ?_⟩
  rw [exec_rsmPush_eq_next, pushAll_singleton]
  refine ⟨fun hnil hb => ?start, fun hnil hb => ?skip, fun hne hlen hfull => ?complete, fun hne hopen => ?incomplete⟩
  case start => rw [hnil, hb]; rfl
  case skip => rw [hnil, push1_nil_of_ne hb, State.with_buf_self hnil]
  case complete => rw [push1_of_complete hne ((bufComplete_append_iff s.buf b).2 ⟨hlen, hfull⟩)]
  case incomplete =>
    have hfalse : bufComplete (s.buf ++ [b]) = false := by
      rw [← Bool.not_eq_true, bufComplete_append_iff]
      omega
    rw [push1_of_incomplete hne hfalse]

/-! ## Clean streams -/

/-- Noise without START is skipped, byte by byte (43_reassembler.md R83). -/
theorem pushAll_noise {noise : List Byte} (h : (0xDD : Byte) ∉ noise) : pushAll [] noise = ([], noise.map .skip) := by
  induction noise with
  | nil => rfl
  | cons b rest ih =>
    have hb : b ≠ Config.startMarker := fun hb => h (hb ▸ List.mem_cons_self)
    rw [pushAll_cons, push1_nil_of_ne hb, ih (fun hrest => h (List.mem_cons_of_mem b hrest))]
    rfl

/-- While no frame is completed, a chunk is appended to the buffer. -/
theorem pushAll_of_incomplete {buf s : List Byte} (hne : buf ≠ [])
    (h : ∀ p q, s = p ++ q → p ≠ [] → bufComplete (buf ++ p) = false) : pushAll buf s = (buf ++ s, []) := by
  induction s generalizing buf with
  | nil => simp
  | cons b rest ih =>
    have hrest : pushAll (buf ++ [b]) rest = (buf ++ [b] ++ rest, []) := by
      refine ih (by simp) fun p q hpq _ => ?_
      rw [List.append_assoc]
      exact h (b :: p) q (by rw [hpq]; rfl) (List.cons_ne_nil b p)
    rw [pushAll_cons, push1_of_incomplete hne (h [b] rest rfl (List.cons_ne_nil b [])), hrest, List.append_assoc]
    rfl

/-- Part of a candidate frame, short of all of it, is no complete frame: it declares the same LEN. -/
theorem bufComplete_of_proper_prefix {f p q : List Byte} (hf : f.length = 7 + (memRead1 f 3).toNat) (hpq : f = p ++ q)
    (hq : q ≠ []) : bufComplete p = false := by
  rw [← Bool.not_eq_true, bufComplete_iff]
  rintro ⟨hknown, hlen⟩
  rw [hpq, memRead1_append_left (by omega), List.length_append] at hf
  have := List.length_pos_iff.2 hq
  omega

/-- A candidate frame, pushed while hunting, is emitted as it is (43_reassembler.md R81). -/
theorem pushAll_of_frame_shape {f : List Byte} (h : (Event.frame f).Shape) : pushAll [] f = ([], [.frame f]) := by
  obtain ⟨hmin, -, hstart, hlen⟩ := h
  obtain ⟨rest, rfl⟩ := List.head?_eq_some_iff.1 hstart
  obtain hnil | ⟨mid, last, rfl⟩ := List.eq_nil_or_concat rest
  · simp [hnil] at hmin
  rw [List.concat_eq_append] at hlen ⊢
  have hmid : pushAll [Config.startMarker] mid = ([Config.startMarker] ++ mid, []) := by
    refine pushAll_of_incomplete (by simp) fun p q hpq _ => ?_
    exact bufComplete_of_proper_prefix hlen (q := q ++ [last]) (by simp [hpq]) (by simp)
  have hlast : push1 ([Config.startMarker] ++ mid) last = ([], [.frame ([Config.startMarker] ++ mid ++ [last])]) :=
    push1_of_complete (by simp) ((bufComplete_iff _).2 ⟨by simp at hmin ⊢; omega, by simpa using hlen⟩)
  rw [pushAll_cons, push1_nil_start, pushAll_append, hmid, pushAll_singleton, hlast]
  rfl

/-- The encoder's frames are candidate frames (43_reassembler.md R80). -/
theorem frame_shape (b1 b2 : Byte) {data : List Byte} (hfits : data.length ≤ 255) :
    (Event.frame (frame b1 b2 data)).Shape := by
  have hlen : memRead1 (frame b1 b2 data) 3 = lenByte data.length := rfl
  refine ⟨?_, ?_, rfl, ?_⟩
  · rw [length_frame]; omega
  · rw [length_frame]; omega
  · rw [length_frame, hlen, toNat_lenByte hfits]

/-- A frame behind noise without START: the noise is skipped, the frame is emitted. -/
theorem pushAll_noise_frame {noise : List Byte} (hnoise : (0xDD : Byte) ∉ noise) (b1 b2 : Byte) {data : List Byte}
    (hfits : data.length ≤ 255) :
    pushAll [] (noise ++ frame b1 b2 data) = ([], noise.map .skip ++ [.frame (frame b1 b2 data)]) := by
  rw [pushAll_append, pushAll_noise hnoise, pushAll_of_frame_shape (frame_shape b1 b2 hfits)]

/-- Pieces that each leave the buffer empty are cut one after the other. -/
theorem pushAll_flatMap {α : Type} (bytes : α → List Byte) (events : α → List Event) (items : List α)
    (h : ∀ it ∈ items, pushAll [] (bytes it) = ([], events it)) :
    pushAll [] (items.flatMap bytes) = ([], items.flatMap events) := by
  induction items with
  | nil => rfl
  | cons it items ih =>
    rw [List.flatMap_cons, pushAll_append, h it List.mem_cons_self,
      ih fun it' hit' => h it' (List.mem_cons_of_mem it hit')]
    rfl

/-- Settles O36 (43_reassembler.md R89 (c) and (d)). -/
theorem cleanStreamIsCutIntoItsFrames : Obligations.CleanStreamIsCutIntoItsFrames := by
  intro items last s hbuf hitems hlast
  have hcut := pushAll_flatMap _ _ items fun it hit =>
    pushAll_noise_frame (hitems it hit).1 it.2.1 it.2.2.1 (hitems it hit).2
  rw [exec_rsmPush_eq_next, hbuf, pushAll_append, hcut, pushAll_noise hlast, State.with_buf_self hbuf]

/-! ## The derived items of the buffer -/

/-- Settles O43 (10_state.md R14). -/
theorem collectingNeedsMoreBytes : Obligations.CollectingNeedsMoreBytes := by
  intro s hinv
  refine ⟨?mode, fun hunknown => ?unknown, fun hknown => ?known⟩
  case mode =>
    rw [State.fill, List.length_eq_zero_iff, State.rsmMode]
    split_ifs with hnil <;> simp [hnil]
  case unknown =>
    have hfill : ¬ 4 ≤ s.buf.length := of_decide_eq_false hunknown
    exact ⟨by rw [State.need, hunknown]; rfl, by rw [State.fill]; omega⟩
  case known =>
    have hfill : 4 ≤ s.buf.length := of_decide_eq_true hknown
    have hshort := hinv.incomplete hfill
    have hbyte := (memRead1 s.buf 3).isLt
    have hne : s.buf ≠ [] := fun hnil => by simp [hnil] at hfill
    exact ⟨if_neg hne, _, if_pos hknown, rfl, hshort, by rw [Config.overhead, Config.lenOffset, Config.rsmCap]; omega⟩

end Sys2Proof.Machine
end

section
/-! PROOFS. The text loader (44_text_loader.md): digits read in pairs, escapes read one after the other, and the offline pipeline
over both. -/

namespace Sys2Proof.Machine

theorem exec_txtHex_eq_next (text : List Nat) (s : State) :
    exec (.txtHex text) s = .next (s.after (outcomeOf .bytes (txtHex text))) :=
  finish_eq_next_after ..

theorem exec_txtEsc_eq_next (text : List Nat) (s : State) :
    exec (.txtEsc text) s = .next (s.after (outcomeOf .bytes (txtEsc text))) :=
  finish_eq_next_after ..

theorem isAscii_iff (text : List Nat) : isAscii text = true ↔ ∀ c ∈ text, c ≤ 0x7F := by
  simp [isAscii]

/-! ## TXT.HEX -/

/-- The digits of a text, its delimiters removed (44_text_loader.md R91). -/
theorem filter_not_isDelimiter (text : List Nat) :
    (text.filter fun c => !isDelimiter c) = text.filter fun c => c ∉ [32, 58, 44] := by
  refine List.filter_congr fun c _ => ?_
  simp [isDelimiter, Bool.and_assoc]

/-- The bytes are those of the digits in pairs, the first the high nibble (44_text_loader.md R91). -/
def ReadsPairs (digits : List Nat) (bytes : List Byte) : Prop :=
  2 * bytes.length = digits.length ∧
    ∀ k, k < bytes.length → ∃ h l hv lv, digits[2 * k]? = some h ∧ digits[2 * k + 1]? = some l ∧
      DigitValue h hv ∧ DigitValue l lv ∧ bytes[k]? = some (BitVec.ofNat 8 (16 * hv + lv))

theorem ReadsPairs.cons {digits : List Nat} {bytes : List Byte} (hread : ReadsPairs digits bytes) {h l hv lv : Nat}
    (dh : DigitValue h hv) (dl : DigitValue l lv) :
    ReadsPairs (h :: l :: digits) (BitVec.ofNat 8 (16 * hv + lv) :: bytes) := by
  obtain ⟨hlen, hbytes⟩ := hread
  refine ⟨by simp only [List.length_cons]; omega, fun k hk => ?_⟩
  cases k with
  | zero => exact ⟨h, l, hv, lv, rfl, rfl, dh, dl, rfl⟩
  | succ k => exact hbytes k (by simpa using hk)

/-- A pair and what follows it are read where both are. -/
theorem hexPairs_cons_cons_eq_ok_iff (h l : Nat) (rest : List Nat) (bytes : List Byte) :
    hexPairs (h :: l :: rest) = .ok bytes ↔
      ∃ b bs, hexPair h l = some b ∧ hexPairs rest = .ok bs ∧ bytes = b :: bs := by
  rw [hexPairs]
  cases hexPair h l <;> cases hexPairs rest <;> simp [eq_comm]

/-- Evenly many digits are read in pairs. -/
theorem hexPairs_of_digits : ∀ digits : List Nat, (∀ c ∈ digits, ∃ v, DigitValue c v) → digits.length % 2 = 0 →
    ∃ bytes, hexPairs digits = .ok bytes ∧ ReadsPairs digits bytes
  | [], _, _ => ⟨[], rfl, rfl, fun _ hk => absurd hk (Nat.not_lt_zero _)⟩
  | [_], _, heven => absurd heven (by simp)
  | h :: l :: rest, hdigits, heven => by
    obtain ⟨hv, dh⟩ := hdigits h (by simp)
    obtain ⟨lv, dl⟩ := hdigits l (by simp)
    obtain ⟨bs, hbs, hread⟩ := hexPairs_of_digits rest (fun c hc => hdigits c (by simp [hc]))
      (by simp only [List.length_cons] at heven; omega)
    have hpair := (hexPair_eq_some_iff h l _).2 ⟨hv, lv, dh, dl, rfl⟩
    exact ⟨_, (hexPairs_cons_cons_eq_ok_iff ..).2 ⟨_, bs, hpair, hbs, rfl⟩, hread.cons dh dl⟩

/-- Nothing else is read: a text that is read is evenly many digits. -/
theorem digits_of_hexPairs : ∀ {digits : List Nat} {bytes : List Byte}, hexPairs digits = .ok bytes →
    (∀ c ∈ digits, ∃ v, DigitValue c v) ∧ digits.length % 2 = 0
  | [], _, _ => ⟨fun _ hc => absurd hc List.not_mem_nil, rfl⟩
  | [_], _, hok => by cases hok
  | h :: l :: rest, bytes, hok => by
    obtain ⟨b, bs, hpair, hrest, -⟩ := (hexPairs_cons_cons_eq_ok_iff ..).1 hok
    obtain ⟨hv, lv, dh, dl, -⟩ := (hexPair_eq_some_iff ..).1 hpair
    obtain ⟨hdigits, heven⟩ := digits_of_hexPairs hrest
    refine ⟨?_, by simp only [List.length_cons]; omega⟩
    rw [List.forall_mem_cons, List.forall_mem_cons]
    exact ⟨⟨hv, dh⟩, ⟨lv, dl⟩, hdigits⟩

theorem hexPairs_eq_error {digits : List Nat} {c : ErrCode} (h : hexPairs digits = .error c) : c = .textRefused := by
  unfold hexPairs at h
  split at h
  · cases h
  · cases h; rfl
  · split at h <;> cases h
    rfl

theorem txtHex_eq_error {text : List Nat} {c : ErrCode} (h : txtHex text = .error c) : c = .textRefused := by
  unfold txtHex at h
  split_ifs at h
  · exact hexPairs_eq_error h
  · cases h; rfl

theorem DigitValue.isAscii {c v : Nat} (h : DigitValue c v) : c ≤ 0x7F := by
  unfold DigitValue at h
  omega

/-- A text whose characters are digits and delimiters is ASCII. -/
theorem isAscii_of_digits {text : List Nat}
    (h : ∀ c ∈ text.filter (fun c => c ∉ [32, 58, 44]), ∃ v, DigitValue c v) : isAscii text = true := by
  refine (isAscii_iff text).2 fun c hc => ?_
  by_cases hdelim : c ∈ [32, 58, 44]
  · simp only [List.mem_cons, List.not_mem_nil, or_false] at hdelim
    omega
  · obtain ⟨v, hv⟩ := h c (by simpa [hc] using hdelim)
    exact hv.isAscii

/-- Settles O44 (44_text_loader.md R90, R91). -/
theorem txtHexReadsDigitPairs : Obligations.TxtHexReadsDigitPairs := by
  rintro text digits s rfl
  rw [exec_txtHex_eq_next]
  refine ⟨fun hdigits heven => ?read, fun hbad => ?refuse⟩
  case read =>
    obtain ⟨bytes, hok, hlen, hbytes⟩ := hexPairs_of_digits _ hdigits heven
    have htxt : txtHex text = .ok bytes := by
      rw [txtHex, if_pos (isAscii_of_digits hdigits), filter_not_isDelimiter, hok]
    exact ⟨bytes, by rw [htxt, outcomeOf_ok], hlen, hbytes⟩
  case refuse =>
    cases htxt : txtHex text with
    | error e => rw [txtHex_eq_error htxt, outcomeOf_error]
    | ok bytes =>
      unfold txtHex at htxt
      split_ifs at htxt
      rw [filter_not_isDelimiter] at htxt
      obtain ⟨hdigits, heven⟩ := digits_of_hexPairs htxt
      obtain ⟨c, hc, hnone⟩ | hodd := hbad
      · obtain ⟨v, hv⟩ := hdigits c hc
        exact absurd hv (hnone v)
      · omega

/-! ## TXT.ESC -/

theorem hexEscapeAhead_iff (text : List Nat) : HexEscapeAhead text ↔ ∃ b, hexEscape text = some b := by
  simp only [hexEscape_eq_some_iff]
  constructor
  · rintro ⟨h, l, hv, lv, rest, rfl, dh, dl⟩
    exact ⟨_, h, l, hv, lv, rest, rfl, dh, dl, rfl⟩
  · rintro ⟨-, h, l, hv, lv, rest, rfl, dh, dl, -⟩
    exact ⟨h, l, hv, lv, rest, rfl, dh, dl⟩

theorem letterEscapeAhead_iff (text : List Nat) : LetterEscapeAhead text ↔ ∃ b, shortEscape text = some b := by
  simp only [shortEscape_eq_some_iff]
  exact ⟨fun ⟨e, b, rest, he, hb⟩ => ⟨b, e, rest, he, hb⟩, fun ⟨b, e, rest, he, hb⟩ => ⟨e, b, rest, he, hb⟩⟩

theorem hexEscape_eq_none_iff (text : List Nat) : hexEscape text = none ↔ ¬ HexEscapeAhead text := by
  rw [hexEscapeAhead_iff, Option.eq_none_iff_forall_ne_some, not_exists]

theorem shortEscape_eq_none_iff (text : List Nat) : shortEscape text = none ↔ ¬ LetterEscapeAhead text := by
  rw [letterEscapeAhead_iff, Option.eq_none_iff_forall_ne_some, not_exists]

/-- `x` is no letter escape, so what begins with a letter escape is no hexadecimal one. -/
theorem hexEscape_eq_none_of_letter {e : Nat} {b : Byte} (h : (e, b) ∈ letterEscapes) (rest : List Nat) :
    hexEscape (e :: rest) = none := by
  rw [hexEscape_eq_none_iff]
  rintro ⟨c, l, hv, lv, rest', heq, -, -⟩
  obtain ⟨rfl, -⟩ := List.cons.inj heq
  simp [letterEscapes] at h

theorem escScan_literal {c : Nat} (h : c ≠ 92) (rest : List Nat) :
    escScan 0 (c :: rest) = BitVec.ofNat 8 c :: escScan 0 rest := by
  rw [escScan_cons, escOne, if_neg h]
  rfl

theorem escScan_hex {rest : List Nat} {b : Byte} (h : hexEscape rest = some b) :
    escScan 0 (92 :: rest) = b :: escScan 0 (rest.drop 3) := by
  rw [escScan_cons, escOne, if_pos rfl, h]

theorem escScan_letter {rest : List Nat} {b : Byte} (hhex : hexEscape rest = none) (h : shortEscape rest = some b) :
    escScan 0 (92 :: rest) = b :: escScan 0 (rest.drop 1) := by
  rw [escScan_cons, escOne, if_pos rfl, hhex, h]

theorem escScan_backslash {rest : List Nat} (hhex : hexEscape rest = none) (hletter : shortEscape rest = none) :
    escScan 0 (92 :: rest) = 0x5C :: escScan 0 rest := by
  rw [escScan_cons, escOne, if_pos rfl, hhex, hletter]
  rfl

/-- A text reads as what the scan gives. -/
theorem escReads_escScan (text : List Nat) : EscReads text (escScan 0 text) := by
  induction hn : text.length using Nat.strong_induction_on generalizing text with
  | _ n ih =>
    cases text with
    | nil => exact .done
    | cons c rest =>
      have ihrest (rest' : List Nat) (hlen : rest'.length ≤ rest.length) : EscReads rest' (escScan 0 rest') :=
        ih rest'.length (by rw [← hn, List.length_cons]; omega) rest' rfl
      by_cases hc : c = 92
      · subst hc
        cases hhex : hexEscape rest with
        | some b =>
          obtain ⟨h, l, hv, lv, rest', rfl, dh, dl, rfl⟩ := (hexEscape_eq_some_iff rest b).1 hhex
          rw [escScan_hex hhex]
          exact .hex h l hv lv rest' _ dh dl (ihrest rest' (by simp only [List.length_cons]; omega))
        | none =>
          cases hletter : shortEscape rest with
          | some b =>
            obtain ⟨e, rest', rfl, hb⟩ := (shortEscape_eq_some_iff rest b).1 hletter
            rw [escScan_letter hhex hletter]
            exact .letter e b rest' _ hb (ihrest rest' (by simp))
          | none =>
            rw [escScan_backslash hhex hletter]
            exact .backslash rest _ ((hexEscape_eq_none_iff rest).1 hhex) ((shortEscape_eq_none_iff rest).1 hletter)
              (ihrest rest le_rfl)
      · rw [escScan_literal hc]
        exact .literal c rest _ hc (ihrest rest le_rfl)

/-- It reads as nothing else. -/
theorem EscReads.eq_escScan {text : List Nat} {bytes : List Byte} (h : EscReads text bytes) :
    bytes = escScan 0 text := by
  induction h with
  | done => rfl
  | hex h l hv lv rest bs dh dl _ ih =>
    rw [escScan_hex ((hexEscape_eq_some_iff _ _).2 ⟨h, l, hv, lv, rest, rfl, dh, dl, rfl⟩), ih]
    rfl
  | letter e b rest bs hb _ ih =>
    rw [escScan_letter (hexEscape_eq_none_of_letter hb rest) ((shortEscape_eq_some_iff _ _).2 ⟨e, rest, rfl, hb⟩), ih]
    rfl
  | backslash rest bs hhex hletter _ ih =>
    rw [escScan_backslash ((hexEscape_eq_none_iff rest).2 hhex) ((shortEscape_eq_none_iff rest).2 hletter), ih]
  | literal c rest bs hc _ ih => rw [escScan_literal hc, ih]

theorem txtEsc_of_ascii {text : List Nat} (h : ∀ c ∈ text, c ≤ 0x7F) : txtEsc text = .ok (escScan 0 text) := by
  rw [txtEsc, if_pos ((isAscii_iff text).2 h)]

/-- What an ASCII text reads as is what TXT.ESC delivers. -/
theorem exec_txtEsc_of_reads {text : List Nat} {bytes : List Byte} (hreads : EscReads text bytes)
    (hascii : ∀ c ∈ text, c ≤ 0x7F) (s : State) :
    exec (.txtEsc text) s = .next (s.after (.ok (.bytes bytes))) := by
  rw [exec_txtEsc_eq_next, txtEsc_of_ascii hascii, outcomeOf_ok, hreads.eq_escScan]

/-- Settles O45 (44_text_loader.md R90, R92). -/
theorem txtEscReadsByTheEscapes : Obligations.TxtEscReadsByTheEscapes := by
  refine fun text s => ⟨fun hascii => ?read, fun ⟨c, hc, hbig⟩ => ?refuse⟩
  case read =>
    exact ⟨_, exec_txtEsc_of_reads (escReads_escScan text) hascii s, escReads_escScan text, fun _ h => h.eq_escScan⟩
  case refuse =>
    have hnot : ¬ isAscii text = true := fun h => by
      have := (isAscii_iff text).1 h c hc
      omega
    rw [exec_txtEsc_eq_next, txtEsc, if_neg hnot, outcomeOf_error]

/-! ## Bytes written as escapes -/

theorem digitValue_digitChar {v : Nat} (h : v < 16) : DigitValue (digitChar v) v := by
  unfold digitChar DigitValue
  split_ifs <;> omega

/-- A byte is its two nibbles, the first the high one. -/
theorem ofNat_nibbles (b : Byte) : BitVec.ofNat 8 (16 * (b.toNat / 16) + b.toNat % 16) = b := by
  rw [Nat.div_add_mod, BitVec.ofNat_toNat, BitVec.setWidth_eq]

theorem escReads_flatMap_hexEscaped (bytes : List Byte) : EscReads (bytes.flatMap hexEscaped) bytes := by
  induction bytes with
  | nil => exact .done
  | cons b bytes ih =>
    have hb : b.toNat < 256 := b.isLt
    have hhex := EscReads.hex _ _ _ _ _ _ (digitValue_digitChar (v := b.toNat / 16) (by omega))
      (digitValue_digitChar (v := b.toNat % 16) (by omega)) ih
    rwa [ofNat_nibbles] at hhex

/-- Characters without a backslash pass through. -/
theorem EscReads.append_plain {plain text : List Nat} {bytes : List Byte} (hplain : ∀ c ∈ plain, c ≠ 92)
    (h : EscReads text bytes) : EscReads (plain ++ text) (plain.map (BitVec.ofNat 8) ++ bytes) := by
  induction plain with
  | nil => exact h
  | cons c plain ih =>
    exact .literal c _ _ (hplain c List.mem_cons_self) (ih fun c' hc' => hplain c' (List.mem_cons_of_mem c hc'))

theorem hexEscaped_isAscii (b : Byte) : ∀ c ∈ hexEscaped b, c ≤ 0x7F := by
  have hb : b.toNat < 256 := b.isLt
  have hhigh := (digitValue_digitChar (v := b.toNat / 16) (by omega)).isAscii
  have hlow := (digitValue_digitChar (v := b.toNat % 16) (by omega)).isAscii
  simp [hexEscaped, hhigh, hlow]

/-- Settles O46 (44_text_loader.md R92). -/
theorem escapedTextHasOneReading : Obligations.EscapedTextHasOneReading := by
  refine ⟨fun text bytes s hreads hascii => exec_txtEsc_of_reads hreads hascii s, fun plain bytes s hplain => ?written⟩
  case written =>
    have hreads := (escReads_flatMap_hexEscaped bytes).append_plain fun c hc => (hplain c hc).2
    refine exec_txtEsc_of_reads hreads (fun c hc => ?_) s
    obtain hc | hc := List.mem_append.1 hc
    · exact (hplain c hc).1
    · obtain ⟨b, -, hcb⟩ := List.mem_flatMap.1 hc
      exact hexEscaped_isAscii b c hcb

/-! ## The offline pipeline -/

theorem exec_textInstr_eq_next (fmt : TxtFmt) (text : List Nat) (s : State) :
    exec (textInstr fmt text) s = .next (s.after (outcomeOf .bytes (loadText fmt text))) := by
  cases fmt with
  | hex => exact exec_txtHex_eq_next text s
  | esc => exact exec_txtEsc_eq_next text s

/-- The outcome of a candidate is the one DEC.RUN returns for it, in the direction picked. -/
theorem offlineOutcomes_getElem? (pick : Nat → List Byte → Dir) (bytes : List Byte) {k : Nat} {f : List Byte}
    (h : (candidates (splitEvents bytes))[k]? = some f) :
    (offlineOutcomes pick bytes)[k]? = some (decodeFrame (pick k f) f) := by
  rw [offlineOutcomes, getElem?_decodeEach, h, Option.map_some, Nat.zero_add]

/-- Settles O54 (44_text_loader.md R93). -/
theorem offlineAnalysisIsItsOperations : Obligations.OfflineAnalysisIsItsOperations := by
  intro fmt pick text s
  rw [exec_textInstr_eq_next]
  obtain ⟨e, hload, hoff⟩ | ⟨bytes, hload, hoff⟩ := offlineAnalysis_cases fmt pick text
  · exact .inl ⟨e, by rw [hload, outcomeOf_error], hoff⟩
  · refine .inr ⟨bytes, splitEvents bytes, offlineOutcomes pick bytes, by rw [hload, outcomeOf_ok],
      exec_rsmSplit_eq_next bytes s, hoff, mem_candidates_iff _, length_decodeEach pick _ 0, fun k f hf => ?outcome⟩
    case outcome =>
      rw [offlineOutcomes_getElem? pick bytes hf]
      cases hdec : decodeFrame (pick k f) f with
      | ok r => exact .inl ⟨r, rfl, fun t => by rw [exec_decRun_eq_next, hdec, outcomeOf_ok]⟩
      | error c => exact .inr ⟨c, rfl, fun t => by rw [exec_decRun_eq_next, hdec, outcomeOf_error]⟩

end Sys2Proof.Machine
end

section
/-! PROOFS. The whole machine: who writes each element, what an error leaves unchanged, and which operations see no state. -/

namespace Sys2Proof.Machine

/-! ## Writers -/

theorem accAfter_ne {acc : Word} {i : Instr} (h : accAfter acc i ≠ acc) :
    i = .reset ∨ i = .chkClr ∨ ∃ b, i = .chkUpd b := by
  cases i with
  | reset => exact .inl rfl
  | chkClr => exact .inr (.inl rfl)
  | chkUpd b => exact .inr (.inr ⟨b, rfl⟩)
  | _ => exact absurd rfl h

theorem bufAfter_ne {buf : List Byte} {i : Instr} (h : bufAfter buf i ≠ buf) : i = .reset ∨ isRsm i = true := by
  cases i with
  | reset => exact .inl rfl
  | rsmPush chunk => exact .inr rfl
  | rsmFlush => exact .inr rfl
  | rsmClr => exact .inr rfl
  | rsmSplit bytes => exact .inr rfl
  | _ => exact absurd rfl h

/-- Settles O47 (10_state.md R11 to R13). -/
theorem writersOfTheStateElements : Obligations.WritersOfTheStateElements := by
  intro i s t hexec
  obtain ⟨-, rfl⟩ := (exec_eq_next_iff i s t).1 hexec
  exact ⟨accAfter_ne, bufAfter_ne⟩

/-- Settles O48 (60_exceptions.md R100). -/
theorem everyOperationReturnsOneOutcome : Obligations.EveryOperationReturnsOneOutcome := fun i s =>
  ⟨fun hres => ⟨_, _, exec_eq_next_effect i s hres, rfl, rfl⟩, exec_eq_refused i s⟩

/-! ## Operations without state -/

/-- A stateless operation writes neither element. -/
theorem stateless_effect {i : Instr} (h : isStateless i = true) (s : State) :
    s.effect i = s.after (resultOf s.acc s.buf i) := by
  cases i with
  | reset | chkClr | chkUpd b | chkGet | reserved7 | rsmPush chunk | rsmFlush | rsmClr | rsmSplit bytes | reservedCF low =>
    cases h
  | _ => rfl

/-- The outcome of a stateless operation is the same whatever the two elements hold. -/
theorem stateless_resultOf {i : Instr} (h : isStateless i = true) (acc acc' : Word) (buf buf' : List Byte) :
    resultOf acc buf i = resultOf acc' buf' i := by
  cases i with
  | reset | chkClr | chkUpd b | chkGet | reserved7 | rsmPush chunk | rsmFlush | rsmClr | rsmSplit bytes | reservedCF low =>
    cases h
  | _ => rfl

theorem not_reserved_of_stateless {i : Instr} (h : isStateless i = true) : isReserved i = false := by
  cases i with
  | reserved7 | reservedCF low => cases h
  | _ => rfl

/-- Settles O50 (10_state.md R10, R12). -/
theorem statelessOperationsSeeNoState : Obligations.StatelessOperationsSeeNoState := fun i h =>
  ⟨resultOf 0 [] i, fun s => by
    rw [exec_eq_next_effect i s (not_reserved_of_stateless h), stateless_effect h, stateless_resultOf h s.acc 0 s.buf []]⟩

/-! ## Errors -/

/-- The encoder's only error is of a payload that is too long. -/
theorem encodeFrame_raises {b1 b2 : Byte} {data : List Byte} {c : ErrCode}
    (h : outcomeOf .bytes (encodeFrame b1 b2 data) = .err c) : c = .payloadTooLong ∧ 255 < data.length := by
  obtain ⟨-, heq⟩ | ⟨hlong, heq⟩ := encodeFrame_cases b1 b2 data <;> rw [heq] at h <;> cases h
  exact ⟨rfl, hlong⟩

/-- The errors of DEC.RUN are those with codes 1 to 5 (60_exceptions.md R101). -/
theorem code_le_of_decodeFrame_eq_error {dir : Dir} {inp : List Byte} {c : ErrCode}
    (h : decodeFrame dir inp = .error c) : c.code ≤ 5 := by
  rw [decodeFrame_eq_error_iff] at h
  cases c with
  | payloadTooLong | textRefused => exact h.elim
  | _ => decide

theorem txtEsc_eq_error {text : List Nat} {c : ErrCode} (h : txtEsc text = .error c) : c = .textRefused := by
  unfold txtEsc at h
  split_ifs at h
  cases h
  rfl

/-- The operations that encode a payload of the host's: those of ENC and the wire kinds that carry one. -/
def encodesPayload : Instr → Bool
  | .encReq _ _ _ => true
  | .encRsp _ _ _ => true
  | .read _ _ => true
  | .write _ _ => true
  | .rsp _ _ _ => true
  | _ => false

theorem encodesPayload_iff (i : Instr) :
    encodesPayload i = true ↔
      (∃ rw reg data, i = .encReq rw reg data) ∨ (∃ reg status data, i = .encRsp reg status data) ∨
        (∃ reg data, i = .read reg data) ∨ (∃ reg data, i = .write reg data) ∨
        (∃ reg status data, i = .rsp reg status data) := by
  cases i <;> simp [encodesPayload]

/-- Which operations raise which errors (60_exceptions.md R101). -/
theorem resultOf_eq_err {acc : Word} {buf : List Byte} {i : Instr} {c : ErrCode} (h : resultOf acc buf i = .err c) :
    ((∃ dir inp, i = .decRun dir inp) ∧ c.code ≤ 5) ∨ (encodesPayload i = true ∧ c = .payloadTooLong) ∨
      (((∃ text, i = .txtHex text) ∨ ∃ text, i = .txtEsc text) ∧ c = .textRefused) := by
  cases i with
  | decRun dir inp =>
    exact .inl ⟨⟨dir, inp, rfl⟩, code_le_of_decodeFrame_eq_error ((outcomeOf_eq_err_iff _ _ _).1 h)⟩
  | encReq rw reg data => exact .inr (.inl ⟨rfl, (encodeFrame_raises h).1⟩)
  | encRsp reg status data => exact .inr (.inl ⟨rfl, (encodeFrame_raises h).1⟩)
  | read reg data => exact .inr (.inl ⟨rfl, (encodeFrame_raises h).1⟩)
  | write reg data => exact .inr (.inl ⟨rfl, (encodeFrame_raises h).1⟩)
  | rsp reg status data => exact .inr (.inl ⟨rfl, (encodeFrame_raises h).1⟩)
  | mosfet m =>
    have hlong : 255 < (mosfetPayload m).length :=
      (encodeFrame_raises (b1 := Config.opWrite) (b2 := 0xE1) (data := mosfetPayload m) h).2
    simp [mosfetPayload] at hlong
  | txtHex text => exact .inr (.inr ⟨.inl ⟨text, rfl⟩, txtHex_eq_error ((outcomeOf_eq_err_iff _ _ _).1 h)⟩)
  | txtEsc text => exact .inr (.inr ⟨.inr ⟨text, rfl⟩, txtEsc_eq_error ((outcomeOf_eq_err_iff _ _ _).1 h)⟩)
  | _ => cases h

/-- Only stateless operations fail. -/
theorem isStateless_of_resultOf_eq_err {acc : Word} {buf : List Byte} {i : Instr} {c : ErrCode}
    (h : resultOf acc buf i = .err c) : isStateless i = true := by
  cases i with
  | reset | chkClr | chkUpd b | chkGet | reserved7 | rsmPush chunk | rsmFlush | rsmClr | rsmSplit bytes | reservedCF low =>
    cases h
  | _ => rfl

/-- Settles O49 (60_exceptions.md R101, R105). -/
theorem errorsWriteNothing : Obligations.ErrorsWriteNothing := by
  intro i s t c hexec hresults
  obtain ⟨-, rfl⟩ := (exec_eq_next_iff i s t).1 hexec
  have herr : resultOf s.acc s.buf i = .err c := by simpa using hresults
  refine ⟨by rw [stateless_effect (isStateless_of_resultOf_eq_err herr), herr], ?_⟩
  obtain ⟨hdec, hcode⟩ | ⟨henc, rfl⟩ | ⟨htxt, rfl⟩ := resultOf_eq_err herr
  · refine ⟨fun _ => hdec, ?_, ?_⟩ <;> rintro rfl <;> exact absurd hcode (by decide)
  · exact ⟨fun hcode => absurd hcode (by decide), fun _ => (encodesPayload_iff i).1 henc, nofun⟩
  · exact ⟨fun hcode => absurd hcode (by decide), nofun, fun _ => htxt⟩

/-! ## Independent units -/

/-- An operation of CHK keeps the buffer, and its outcome does not depend on it. -/
theorem chk_frame {i : Instr} (h : isChk i = true) :
    isReserved i = false ∧ (∀ buf, bufAfter buf i = buf) ∧ ∀ acc buf buf', resultOf acc buf i = resultOf acc buf' i := by
  cases i with
  | chkClr | chkUpd b | chkGet => exact ⟨rfl, fun _ => rfl, fun _ _ _ => rfl⟩
  | _ => cases h

/-- An operation of RSM keeps the accumulator, and its outcome does not depend on it. -/
theorem rsm_frame {j : Instr} (h : isRsm j = true) :
    isReserved j = false ∧ (∀ acc, accAfter acc j = acc) ∧ ∀ acc acc' buf, resultOf acc buf j = resultOf acc' buf j := by
  cases j with
  | rsmPush chunk | rsmFlush | rsmClr | rsmSplit bytes => exact ⟨rfl, fun _ => rfl, fun _ _ _ => rfl⟩
  | _ => cases h

/-- Settles O51 (20_memory.md R26): each unit keeps the other's element and does not read it. -/
theorem unitsDoNotDisturbEachOther : Obligations.UnitsDoNotDisturbEachOther := by
  intro i j s hchk hrsm
  obtain ⟨hi, hbuf, hri⟩ := chk_frame hchk
  obtain ⟨hj, hacc, hrj⟩ := rsm_frame hrsm
  refine ⟨resultOf s.acc s.buf i, resultOf s.acc s.buf j, _, _, _, _, exec_eq_next_effect i s hi, rfl,
    exec_eq_next_effect j _ hj, ?_, exec_eq_next_effect j s hj, rfl, exec_eq_next_effect i _ hi, ?_, ?_, ?_⟩
  · rw [State.effect_results, State.effect_buf, hbuf, hrj _ s.acc]
  · rw [State.effect_results, State.effect_acc, hacc, hri _ _ s.buf]
  · simp only [State.effect_acc, hacc]
  · simp only [State.effect_buf, hbuf]

end Sys2Proof.Machine
end
